-- ==== Sys2Proof/Word.lean ====
section
/-! DEFINITION. The word types of the block: bytes, 16-bit register addresses and masks (spec 00_scope.md R5, R6). -/

namespace Sys2Proof

/-- A byte: opcodes, buffer offsets, payload and wire codes (R5 `OPCODE_WIDTH`, `OFFSET_WIDTH`; R6). -/
abbrev Byte := BitVec 8

/-- A 16-bit value: register addresses (R5 `ADDR_WIDTH`) and interrupt masks (R18 IrqMask). -/
abbrev Half := BitVec 16

end Sys2Proof
end

