-- ==== Sys2Proof/Syntax.lean ====
section
/-! DEFINITION. The operations of the block and of its host, and the values they take: the closed
enumerations and entities of 10_state.md R18, the framed operations of 30_encoding.md R69, the
operation set of 00_scope.md R4 with the pseudo-instructions of 30_encoding.md R71 (one constructor of
`Instr` for each row of spec/opcode_table.json), and the request form the model's port carries. -/

namespace Sys2Proof

/-! ## Closed enumerations (R18, R120)

The spec names every spreading factor, and one member of each other enumeration; the members it does
not name (91_not_in_source.md N9) are `unlisted i`, told apart by a byte of the model's own (DESIGN
CHOICE, log entry 8). The wire codes are configuration (Config.lean). -/

/-- The eight spreading factors SF5 to SF12 (R18). -/
inductive SpreadingFactor where
  | sf5 | sf6 | sf7 | sf8 | sf9 | sf10 | sf11 | sf12
deriving DecidableEq, Repr, Inhabited

/-- Bandwidths: the spec names 200 kHz only (R18). -/
inductive Bandwidth where
  | khz200
  | unlisted (i : Byte)
deriving DecidableEq, Repr, Inhabited

/-- Coding rates: the spec names CR4/5 only (R18). -/
inductive CodingRate where
  | cr45
  | unlisted (i : Byte)
deriving DecidableEq, Repr, Inhabited

/-- Header types: the spec names Explicit only (R18). -/
inductive HeaderType where
  | explicit
  | unlisted (i : Byte)
deriving DecidableEq, Repr, Inhabited

/-- CRC modes: the spec names Enabled only (R18). -/
inductive CrcMode where
  | enabled
  | unlisted (i : Byte)
deriving DecidableEq, Repr, Inhabited

/-- IQ modes: the spec names Normal only (R18). -/
inductive IqMode where
  | normal
  | unlisted (i : Byte)
deriving DecidableEq, Repr, Inhabited

/-- Ramp times: the spec names no member (R18), so each is known by its place alone. -/
structure RampTime where
  index : Byte
deriving DecidableEq, Repr, Inhabited

/-- The interrupt flags the spec names (R17, R178); the 16-bit register has room for others. -/
inductive IrqFlag where
  | txDone | rxDone | crcError | rxTxTimeout
  | unlisted (i : Byte)
deriving DecidableEq, Repr, Inhabited

/-- The circuit modes: standby-RC, FS, TX, RX and the remainder the spec writes as dots (R18, R63). -/
inductive CircuitMode where
  | standbyRc | fs | tx | rx
  | unlisted (i : Byte)
deriving DecidableEq, Repr, Inhabited

/-- What `STAT.MODE` answers: a member of the enumeration, or `unknown(code)` (R141, U6). -/
inductive ModeResult where
  | known (m : CircuitMode)
  | unknown (code : Byte)
deriving DecidableEq, Repr, Inhabited

/-- The six calibration sub-blocks (R64, R142). -/
inductive CalBlock where
  | rc64k | rc13m | pll | adcPulse | adcBulkN | adcBulkP
deriving DecidableEq, Repr, Inhabited

/-! ## Entities (R18) -/

/-- A Frequency: three raw bytes, most significant first (R18, R58). -/
structure Frequency where
  b0 : Byte
  b1 : Byte
  b2 : Byte
deriving DecidableEq, Repr, Inhabited

/-- ModulationParams (R18). -/
structure ModulationParams where
  sf : SpreadingFactor
  bw : Bandwidth
  cr : CodingRate
deriving DecidableEq, Repr, Inhabited

/-- PacketParams (R18). `mant` and `exp` are bytes, as the masking corner cases of R130 need; the sync
word is a field of the entity, of a width the spec does not state, and no byte of the encoding (R134). -/
structure PacketParams where
  mant : Byte
  exp  : Byte
  hdr  : HeaderType
  len  : Byte
  crc  : CrcMode
  iq   : IqMode
  sync : List Byte
deriving DecidableEq, Repr, Inhabited

/-- TxParams: a signed-range power byte and a ramp time (R18, R138). -/
structure TxParams where
  power : Byte
  ramp  : RampTime
deriving DecidableEq, Repr, Inhabited

/-- ModemParams: the aggregate of the four, passed whole to configure (R18, R150). -/
structure ModemParams where
  freq : Frequency
  tx   : TxParams
  mod  : ModulationParams
  pkt  : PacketParams
deriving DecidableEq, Repr, Inhabited

/-! ## Operations -/

/-- The descriptor of a framed operation, one constructor each (R69); `FLUSH` has no frame (R50). -/
inductive FramedOp where
  | cmd  (opc : Byte) (wdata : List Byte) (rlen : Nat)
  | regw (addr : Half) (wdata : List Byte)
  | regr (addr : Half) (rlen : Nat)
  | bufw (off : Byte) (wdata : List Byte)
  | bufr (off : Byte) (rlen : Nat)
deriving DecidableEq, Repr, Inhabited

/-- Every row of spec/opcode_table.json, with the operands of 30_encoding.md R70 and R71. -/
inductive Instr where
  -- transport operations (40_transport.md R81 to R86)
  | cmd  (opc : Byte) (wdata : List Byte) (rlen : Nat)
  | regw (addr : Half) (wdata : List Byte)
  | regr (addr : Half) (rlen : Nat)
  | bufw (off : Byte) (wdata : List Byte)
  | bufr (off : Byte) (rlen : Nat)
  | flush
  -- frequency codec (41_frequency_codec.md R110 to R112)
  | freqHz (hz : BitVec 32)
  | freqRaw (b0 b1 b2 : Byte)
  | freqBytes (f : Frequency)
  -- packers (42_param_packers.md)
  | modPack (sf : SpreadingFactor) (bw : Bandwidth) (cr : CodingRate)
  | modField (sf : SpreadingFactor) (bw : Bandwidth) (cr : CodingRate)
  | modFec (sf : SpreadingFactor)
  | pktPre (mant exp : Byte)
  | pktPack (mant exp : Byte) (hdr : HeaderType) (len : Byte) (crc : CrcMode) (iq : IqMode)
  | pktField (mant exp : Byte) (hdr : HeaderType) (len : Byte) (crc : CrcMode) (iq : IqMode)
  | txpMake (power : Byte) (ramp : RampTime)
  | irqOr (flags : List IrqFlag)
  | statMode (status : Byte)
  | calAll
  -- host sequences (43_host_sequences.md)
  | setfreq (f : Frequency)
  | setmod (sf : SpreadingFactor) (bw : Bandwidth) (cr : CodingRate)
  | setpkt (pkt : PacketParams)
  | calibrate
  | configure (modem : ModemParams)
  | send (payload : List Byte)
deriving DecidableEq, Repr, Inhabited

/-- The instruction that requests a framed operation. -/
def FramedOp.instr : FramedOp → Instr
  | .cmd opc wdata rlen => .cmd opc wdata rlen
  | .regw addr wdata    => .regw addr wdata
  | .regr addr rlen     => .regr addr rlen
  | .bufw off wdata     => .bufw off wdata
  | .bufr off rlen      => .bufr off rlen

/-! ## The request form of the model's port

R69 gives the descriptor no bit layout. The port of the model carries a selector, the operation's bytes
and the read count: for the framed operations the bytes ARE the frame of R51 to R55 and the pair is the
`(frame_out, M)` of R50. DESIGN CHOICE, log entry 1. -/

/-- The operations that put no frame of their own on the bus: `FLUSH`, the codecs, the host sequences. -/
inductive Operation where
  | flush
  | freqHz | freqRaw | freqBytes
  | modPack | modField | modFec
  | pktPre | pktPack | pktField
  | txpMake | irqOr | statMode | calAll
  | setfreq | setmod | setpkt | calibrate | configure | send
deriving DecidableEq, Repr, Inhabited

/-- How the bytes of a request are read: as a frame classed by its first byte (R65), as a command
whatever its opcode (R66), or as the operand bytes of a named operation. -/
inductive Selector where
  | frame
  | command
  | operation (o : Operation)
deriving DecidableEq, Repr, Inhabited

/-- A request as the host presents it at the port. -/
structure Request where
  sel   : Selector
  bytes : List Byte
  rlen  : Nat
deriving DecidableEq, Repr, Inhabited

end Sys2Proof
end

