-- ==== Sys2Proof/Config.lean ====
section
/-! DEFINITION. What is configuration and not state (10_state.md R24, 00_scope.md R5): the catalog of code
tables, opcodes and workaround numbers, all OPEN; the environment's free choices (busy line, interrupt
line, bus failure, read oracle, delay); the free byte driven while reading. The constants `catalog`,
`fill` and `pins` have no body: nothing can be proved of their values. -/

namespace Sys2Proof

/-- The level of a one-bit line (R19, R22). -/
inductive Level where
  | low
  | high
deriving DecidableEq, Repr, Inhabited

/-- The payload of a bus transport error. The spec makes it a type parameter with no structure, of which
only equality may be used (R5 `BusErr`, D20, N28); the model takes opaque tokens (DESIGN CHOICE, log
entry 6). -/
structure BusErr where
  token : Nat
deriving DecidableEq, Repr, Inhabited

/-- One sample of everything the environment decides, taken once per step: the busy line the radio
drives (R19), the interrupt line (R22), whether the bus carries the next event or fails with an error
(R27 agent 4, R91), the byte the radio's oracle presents (R21), and whether a requested delay has elapsed
(R183 `Delay`). -/
structure Pins where
  busy    : Level
  irq     : Level
  bus     : Option BusErr
  miso    : Byte
  elapsed : Bool
deriving DecidableEq, Repr, Inhabited

/-- The catalog and the code tables (R5, R24, D11, D12, D23). Function-typed fields are allowed here:
this is configuration, fixed for the life of the machine. The pinned entries of R121 and R131 are not
fields: the mappers of Machine/Operands.lean fix them, so every catalog satisfies the pins. -/
structure Catalog where
  /-- `SF_CODE` of the members R121 does not pin (its value at SF12 is not used). -/
  sfOpen : SpreadingFactor → Byte
  /-- `BW_CODE` of the unlisted bandwidths. -/
  bwOpen : Byte → Byte
  /-- `CR_CODE` of the unlisted coding rates. -/
  crOpen : Byte → Byte
  /-- `HDR_CODE` of the unlisted header types. -/
  hdrOpen : Byte → Byte
  /-- `CRC_CODE` of the unlisted CRC modes. -/
  crcOpen : Byte → Byte
  /-- `IQ_CODE` of the unlisted IQ modes. -/
  iqOpen : Byte → Byte
  /-- `RAMP_CODE`. -/
  rampCode : RampTime → Byte
  /-- `FEC_CODE_A`, for SF5 and SF6. -/
  fecA : Byte
  /-- `FEC_CODE_B`, for SF7 and SF8. -/
  fecB : Byte
  /-- `FEC_CODE_C`, for SF9 to SF12. -/
  fecC : Byte
  /-- `FEC_REG_ADDR`. -/
  fecRegAddr : Half
  /-- `FEC_CORR_ADDR`. -/
  fecCorrAddr : Half
  /-- `FEC_CORR_VALUE`, a byte list of configured length (R125). -/
  fecCorrValue : List Byte
  /-- `IRQ_BIT`. -/
  irqBit : IrqFlag → Fin 16
  /-- Lowest bit of `MODE_FIELD` in the status byte. -/
  modeLo : Fin 8
  /-- Highest bit of `MODE_FIELD` in the status byte. -/
  modeHi : Fin 8
  /-- `MODE_CODE`. -/
  modeCode : CircuitMode → Byte
  /-- The members of the circuit-mode enumeration that the spec's dots stand for. -/
  modeUnlisted : List Byte
  /-- `CAL_BIT`, as a permutation of the eight bit positions: the six sub-blocks take the images of 0 to
  5, so the positions are distinct, as R142 requires, and otherwise free. -/
  calPerm : Equiv.Perm (Fin 8)
  opcSetStandby : Byte
  opcSetRfFrequency : Byte
  opcSetPacketType : Byte
  opcSetModulationParams : Byte
  opcSetPacketParams : Byte
  opcSetTxParams : Byte
  opcCalibrate : Byte
  opcSetBufferBaseAddress : Byte
  opcGetStatus : Byte
  opcSetDioIrqParams : Byte
  opcSetTx : Byte
  opcSetRx : Byte
  opcGetIrqStatus : Byte
  opcClrIrqStatus : Byte
  opcGetPacketStatus : Byte
  opcGetRxBufferStatus : Byte
  /-- The selector byte of standby on the RC clock (R151). -/
  rcClockCode : Byte
  /-- The packet-type code of LoRa (R155). -/
  loraCode : Byte
  /-- The catalog's layout of the set-tx-params input bytes from the opaque pair (R138, R155). -/
  txpBytes : Byte → Byte → List Byte
  /-- The catalog's serialisation of the four 16-bit masks: irq, dio1, dio2, dio3 (R35, R62). -/
  maskBytes : Half → Half → Half → Half → List Byte
  /-- Which of dio1, dio2, dio3 is the primary interrupt line (N12). -/
  primaryDio : Fin 3
  /-- The input bytes of the transmit command in single-shot timeout mode (R157 step 5). -/
  txSingleShot : List Byte
  /-- The input bytes of the receive command in continuous timeout mode (R158). -/
  rxContinuous : List Byte
  /-- The input bytes of the receive command in single timeout mode (R158). -/
  rxSingle : List Byte
  /-- `M_status`, the number of output bytes of a status read (R157 steps 3 and 6). -/
  statusLen : Nat
  /-- Input bytes of the packet-status command: R158 gives its outputs only (N16). -/
  pktStatusIn : List Byte
  /-- Output bytes of the packet-status read (R158, N27). -/
  pktStatusLen : Nat
  /-- Input bytes of the RX-buffer-status command: R158 gives its outputs only (N16). -/
  rxBufStatusIn : List Byte
  /-- Output bytes of the RX-buffer-status read (R158, N27). -/
  rxBufStatusLen : Nat
  /-- How the RX buffer status gives the payload length (R158, N27). -/
  rxLen : List Byte → Nat
  /-- How the RX buffer status gives the start offset (R158, N27). -/
  rxOff : List Byte → Byte
  /-- Where, between the wait and the clear, the receive design reads the IRQ status: before the packet
  status, before the RX buffer status, before the buffer read, or after it (R158, C10). -/
  rxIrqSlot : Fin 4
  /-- `PAD_ON_WIRE` (D12). -/
  padOnWire : Bool
  /-- `RESET_LOW_MS` less its stated lower bound of 10 (R198). -/
  resetLowExtra : Nat
  /-- `RESET_SETTLE_MS` less its stated lower bound of 10 (R198). -/
  resetSettleExtra : Nat
deriving Inhabited

/-- The catalog of the machine: OPEN in the spec, so a constant with no body (R24, D11, D12, D23). -/
opaque Config.catalog : Catalog

/-- `FILL`: the byte driven on the outgoing line while a byte is read, a free draw per byte (R5, D6). -/
opaque Config.fill : Nat → Byte

/-- The environment's draws at the steps for which State holds no scheduled sample: the radio, its lines
and the bus are free (R19, R21, R22, R27, R91). -/
opaque Config.pins : Nat → Pins

/-- The values 93_implementation_defined.md part 2 recalls of the family (G2 to G13), as ONE catalog among
all: no meaning uses it, only tests and witnesses do. PRESUMED, log entry 9. Entries that part 2 does not
give (the receive timeouts, the status lengths, the place of the receive design's status read) are
placeholders of this value. -/
def Config.familyCatalog : Catalog where
  sfOpen := fun sf => match sf with
    | .sf5 => 0x50 | .sf6 => 0x60 | .sf7 => 0x70 | .sf8 => 0x80
    | .sf9 => 0x90 | .sf10 => 0xA0 | .sf11 => 0xB0 | .sf12 => 0xC0
  bwOpen := fun i => if i = 1 then 0x0A else if i = 2 then 0x18 else 0x26
  crOpen := fun i => i + 1
  hdrOpen := fun _ => 0x80
  crcOpen := fun _ => 0x00
  iqOpen := fun _ => 0x00
  rampCode := fun r => r.index <<< (5 : Nat)
  fecA := 0x1E
  fecB := 0x37
  fecC := 0x32
  fecRegAddr := 0x0925
  fecCorrAddr := 0x093C
  fecCorrValue := [0x01]
  irqBit := fun f => match f with
    | .txDone => 0 | .rxDone => 1 | .crcError => 6 | .rxTxTimeout => 14 | .unlisted _ => 15
  modeLo := 5
  modeHi := 7
  modeCode := fun m => match m with
    | .standbyRc => 2 | .fs => 4 | .rx => 5 | .tx => 6 | .unlisted _ => 3
  modeUnlisted := [0]
  calPerm := Equiv.refl _
  opcSetStandby := 0x80
  opcSetRfFrequency := 0x86
  opcSetPacketType := 0x8A
  opcSetModulationParams := 0x8B
  opcSetPacketParams := 0x8C
  opcSetTxParams := 0x8E
  opcCalibrate := 0x89
  opcSetBufferBaseAddress := 0x8F
  opcGetStatus := 0xC0
  opcSetDioIrqParams := 0x8D
  opcSetTx := 0x83
  opcSetRx := 0x82
  opcGetIrqStatus := 0x15
  opcClrIrqStatus := 0x97
  opcGetPacketStatus := 0x1D
  opcGetRxBufferStatus := 0x17
  rcClockCode := 0x00
  loraCode := 0x01
  txpBytes := fun power ramp => [power, ramp]
  maskBytes := fun irq d1 d2 d3 =>
    [irq, d1, d2, d3].flatMap fun m => [m.extractLsb' 8 8, m.extractLsb' 0 8]
  primaryDio := 0
  txSingleShot := [0x00, 0x00, 0x00]
  rxContinuous := [0x00, 0xFF, 0xFF]
  rxSingle := [0x00, 0x00, 0x00]
  statusLen := 1
  pktStatusIn := []
  pktStatusLen := 5
  rxBufStatusIn := []
  rxBufStatusLen := 2
  rxLen := fun bs => match bs with
    | len :: _ => len.toNat
    | [] => 0
  rxOff := fun bs => match bs with
    | _ :: off :: _ => off
    | _ => 0
  rxIrqSlot := 3
  padOnWire := false
  resetLowExtra := 0
  resetSettleExtra := 0

end Sys2Proof
end

