-- ==== Sys2Proof/WellFormed.lean ====
section
/-! DEFINITION. Well-formed instructions. The block has no illegal operand (30_encoding.md R66): the checks
are about the model's own names for the enumeration members the spec leaves unnamed. An `unlisted` member
may not take the place of a named one, so that every member has one name (log entry 8). -/

namespace Sys2Proof

/-- Place 0 is 200 kHz. -/
def Bandwidth.wellFormed : Bandwidth → Bool
  | .khz200 => true
  | .unlisted i => i != 0

/-- Place 0 is CR4/5. -/
def CodingRate.wellFormed : CodingRate → Bool
  | .cr45 => true
  | .unlisted i => i != 0

/-- Place 0 is Explicit. -/
def HeaderType.wellFormed : HeaderType → Bool
  | .explicit => true
  | .unlisted i => i != 0

/-- Place 0 is Enabled. -/
def CrcMode.wellFormed : CrcMode → Bool
  | .enabled => true
  | .unlisted i => i != 0

/-- Place 0 is Normal. -/
def IqMode.wellFormed : IqMode → Bool
  | .normal => true
  | .unlisted i => i != 0

/-- Places 0 to 3 are TxDone, RxDone, CrcError and RxTxTimeout. -/
def IrqFlag.wellFormed : IrqFlag → Bool
  | .unlisted i => decide (4 ≤ i.toNat)
  | _ => true

def PacketParams.wellFormed (p : PacketParams) : Bool :=
  p.hdr.wellFormed && p.crc.wellFormed && p.iq.wellFormed

def ModulationParams.wellFormed (m : ModulationParams) : Bool :=
  m.bw.wellFormed && m.cr.wellFormed

/-- Every operand names its enumeration member by its one name. -/
def Instr.wellFormed : Instr → Bool
  | .cmd _ _ _ => true
  | .regw _ _ => true
  | .regr _ _ => true
  | .bufw _ _ => true
  | .bufr _ _ => true
  | .flush => true
  | .freqHz _ => true
  | .freqRaw _ _ _ => true
  | .freqBytes _ => true
  | .modPack _ bw cr => bw.wellFormed && cr.wellFormed
  | .modField _ bw cr => bw.wellFormed && cr.wellFormed
  | .modFec _ => true
  | .pktPre _ _ => true
  | .pktPack _ _ hdr _ crc iq => hdr.wellFormed && crc.wellFormed && iq.wellFormed
  | .pktField _ _ hdr _ crc iq => hdr.wellFormed && crc.wellFormed && iq.wellFormed
  | .txpMake _ _ => true
  | .irqOr flags => flags.all IrqFlag.wellFormed
  | .statMode _ => true
  | .calAll => true
  | .setfreq _ => true
  | .setmod _ bw cr => bw.wellFormed && cr.wellFormed
  | .setpkt pkt => pkt.wellFormed
  | .calibrate => true
  | .configure modem => modem.mod.wellFormed && modem.pkt.wellFormed
  | .send _ => true

/-- The well-formedness of an instruction as a proposition. -/
abbrev WellFormed (i : Instr) : Prop := i.wellFormed = true

end Sys2Proof
end

