-- ==== Sys2Proof/Decode.lean ====
section
/-! DEFINITION. From a request at the port to an instruction, total and rejecting by name, and back. The
frames are those of 30_encoding.md R51 to R55, classed by their first byte as R65 says; the operand bytes
of the other operations are the model's own request form (DESIGN CHOICE, log entry 1). Byte-order helpers
(00_scope.md R6 `be_N`, 20_memory.md R34) stand here too, since the machine uses them as well. -/

namespace Sys2Proof

/-! ## Byte order (R6, R34) -/

/-- `be_16`. -/
def be16 (v : BitVec 16) : List Byte :=
  [v.extractLsb' 8 8, v.extractLsb' 0 8]

/-- `be_24`. -/
def be24 (v : BitVec 24) : List Byte :=
  [v.extractLsb' 16 8, v.extractLsb' 8 8, v.extractLsb' 0 8]

/-- `be_32`. -/
def be32 (v : BitVec 32) : List Byte :=
  [v.extractLsb' 24 8, v.extractLsb' 16 8, v.extractLsb' 8 8, v.extractLsb' 0 8]

/-- `be_64`. -/
def be64 (v : BitVec 64) : List Byte :=
  [v.extractLsb' 56 8, v.extractLsb' 48 8, v.extractLsb' 40 8, v.extractLsb' 32 8,
   v.extractLsb' 24 8, v.extractLsb' 16 8, v.extractLsb' 8 8, v.extractLsb' 0 8]

/-! ## First bytes of the frames (R65) -/

/-- Register write (R52). -/
def regWriteByte : Byte := 0x18
/-- Register read (R53). -/
def regReadByte : Byte := 0x19
/-- Buffer write (R54). -/
def bufWriteByte : Byte := 0x1A
/-- Buffer read (R55). -/
def bufReadByte : Byte := 0x1B
/-- The fourth header byte of a register read (R53, R67, D17). -/
def fillerByte : Byte := 0x00

/-! ## Why a request is no descriptor -/

/-- The reasons the decoder gives. -/
inductive DecodeError where
  /-- A frame or command with no byte: the shortest frame has one (R50). -/
  | emptyFrame
  /-- A register or buffer frame shorter than its header (R52 to R55). -/
  | shortHeader
  /-- A read count where the operation reads nothing. -/
  | readCountNotZero
  /-- Written bytes after the header of a read (R53, R55). -/
  | bodyAfterReadHeader
  /-- The fourth header byte of a register read is not 0x00 (R53). -/
  | fillerNotZero
  /-- The pad byte of a MOD.FIELD request is not 0x00 (R59, R67). -/
  | padNotZero
  /-- The number of operand bytes is not the operation's. -/
  | operandCount
  /-- A place outside a closed enumeration (R67). -/
  | noSuchMember
deriving DecidableEq, Repr

/-! ## Places of enumeration members: named members first (log entry 8) -/

def sfOfPlace (b : Byte) : Except DecodeError SpreadingFactor :=
  match b.toNat with
  | 0 => .ok .sf5
  | 1 => .ok .sf6
  | 2 => .ok .sf7
  | 3 => .ok .sf8
  | 4 => .ok .sf9
  | 5 => .ok .sf10
  | 6 => .ok .sf11
  | 7 => .ok .sf12
  | _ => .error .noSuchMember

def placeOfSf : SpreadingFactor → Byte
  | .sf5 => 0
  | .sf6 => 1
  | .sf7 => 2
  | .sf8 => 3
  | .sf9 => 4
  | .sf10 => 5
  | .sf11 => 6
  | .sf12 => 7

def bwOfPlace (b : Byte) : Bandwidth := if b = 0 then .khz200 else .unlisted b

def placeOfBw : Bandwidth → Byte
  | .khz200 => 0
  | .unlisted i => i

def crOfPlace (b : Byte) : CodingRate := if b = 0 then .cr45 else .unlisted b

def placeOfCr : CodingRate → Byte
  | .cr45 => 0
  | .unlisted i => i

def hdrOfPlace (b : Byte) : HeaderType := if b = 0 then .explicit else .unlisted b

def placeOfHdr : HeaderType → Byte
  | .explicit => 0
  | .unlisted i => i

def crcOfPlace (b : Byte) : CrcMode := if b = 0 then .enabled else .unlisted b

def placeOfCrc : CrcMode → Byte
  | .enabled => 0
  | .unlisted i => i

def iqOfPlace (b : Byte) : IqMode := if b = 0 then .normal else .unlisted b

def placeOfIq : IqMode → Byte
  | .normal => 0
  | .unlisted i => i

def flagOfPlace (b : Byte) : IrqFlag :=
  match b.toNat with
  | 0 => .txDone
  | 1 => .rxDone
  | 2 => .crcError
  | 3 => .rxTxTimeout
  | _ => .unlisted b

def placeOfFlag : IrqFlag → Byte
  | .txDone => 0
  | .rxDone => 1
  | .crcError => 2
  | .rxTxTimeout => 3
  | .unlisted i => i

/-! ## Frames (R51 to R55, R65) -/

/-- After `0x18`: the address, high byte first, then the payload; nothing is read (R52). -/
def decodeRegw (rest : List Byte) (rlen : Nat) : Except DecodeError Instr :=
  match rest with
  | hi :: lo :: data => if rlen = 0 then .ok (.regw (hi ++ lo) data) else .error .readCountNotZero
  | _ => .error .shortHeader

/-- After `0x19`: the address, the filler `0x00`, and no body (R53). -/
def decodeRegr (rest : List Byte) (rlen : Nat) : Except DecodeError Instr :=
  match rest with
  | [hi, lo, z] => if z = fillerByte then .ok (.regr (hi ++ lo) rlen) else .error .fillerNotZero
  | _ :: _ :: _ :: _ :: _ => .error .bodyAfterReadHeader
  | _ => .error .shortHeader

/-- After `0x1A`: the offset, then the payload; nothing is read (R54). -/
def decodeBufw (rest : List Byte) (rlen : Nat) : Except DecodeError Instr :=
  match rest with
  | off :: data => if rlen = 0 then .ok (.bufw off data) else .error .readCountNotZero
  | _ => .error .shortHeader

/-- After `0x1B`: the offset, no filler and no body (R55). -/
def decodeBufr (rest : List Byte) (rlen : Nat) : Except DecodeError Instr :=
  match rest with
  | [off] => .ok (.bufr off rlen)
  | _ :: _ :: _ => .error .bodyAfterReadHeader
  | _ => .error .shortHeader

/-- The first-byte map: `0x18` to `0x1B` are register and buffer frames, anything else is a command frame
(R65). -/
def decodeFrame (bytes : List Byte) (rlen : Nat) : Except DecodeError Instr :=
  match bytes with
  | [] => .error .emptyFrame
  | b :: rest =>
    if b = regWriteByte then decodeRegw rest rlen
    else if b = regReadByte then decodeRegr rest rlen
    else if b = bufWriteByte then decodeBufw rest rlen
    else if b = bufReadByte then decodeBufr rest rlen
    else .ok (.cmd b rest rlen)

/-- A command descriptor: any opcode, `0x18` to `0x1B` too (R51, R66). -/
def decodeCommand (bytes : List Byte) (rlen : Nat) : Except DecodeError Instr :=
  match bytes with
  | [] => .error .emptyFrame
  | opc :: wdata => .ok (.cmd opc wdata rlen)

/-! ## Operand bytes of the other operations -/

/-- Packet operands: mantissa, exponent, header, length, CRC, IQ, then the sync word. -/
def decodePacket : List Byte → Except DecodeError PacketParams
  | mant :: exp :: hdr :: len :: crc :: iq :: sync =>
    .ok { mant := mant, exp := exp, hdr := hdrOfPlace hdr, len := len, crc := crcOfPlace crc, iq := iqOfPlace iq, sync := sync }
  | _ => .error .operandCount

/-- Modem operands: frequency, power, ramp, modulation, packet (R18 ModemParams). -/
def decodeModem : List Byte → Except DecodeError ModemParams
  | b0 :: b1 :: b2 :: power :: ramp :: sf :: bw :: cr :: rest =>
    match sfOfPlace sf, decodePacket rest with
    | .ok sf, .ok pkt =>
      .ok { freq := ⟨b0, b1, b2⟩, tx := ⟨power, ⟨ramp⟩⟩, mod := ⟨sf, bwOfPlace bw, crOfPlace cr⟩, pkt := pkt }
    | .error e, _ => .error e
    | _, .error e => .error e
  | _ => .error .operandCount

/-- A modulation triple handed to a constructor. -/
def decodeMod (mk : SpreadingFactor → Bandwidth → CodingRate → Instr) (sf bw cr : Byte) : Except DecodeError Instr :=
  match sfOfPlace sf with
  | .ok sf => .ok (mk sf (bwOfPlace bw) (crOfPlace cr))
  | .error e => .error e

/-- The operand bytes of one operation. -/
def decodeOperation (o : Operation) (bytes : List Byte) : Except DecodeError Instr :=
  match o with
  | .flush => match bytes with
    | [] => .ok .flush
    | _ => .error .operandCount
  | .freqHz => match bytes with
    | [a, b, c, d] => .ok (.freqHz (a ++ b ++ c ++ d))
    | _ => .error .operandCount
  | .freqRaw => match bytes with
    | [a, b, c] => .ok (.freqRaw a b c)
    | _ => .error .operandCount
  | .freqBytes => match bytes with
    | [a, b, c] => .ok (.freqBytes ⟨a, b, c⟩)
    | _ => .error .operandCount
  | .modPack => match bytes with
    | [sf, bw, cr] => decodeMod .modPack sf bw cr
    | _ => .error .operandCount
  | .modField => match bytes with
    | [pad, sf, bw, cr] => if pad = 0 then decodeMod .modField sf bw cr else .error .padNotZero
    | _ => .error .operandCount
  | .modFec => match bytes with
    | [sf] => match sfOfPlace sf with
      | .ok sf => .ok (.modFec sf)
      | .error e => .error e
    | _ => .error .operandCount
  | .pktPre => match bytes with
    | [mant, exp] => .ok (.pktPre mant exp)
    | _ => .error .operandCount
  | .pktPack => match bytes with
    | [mant, exp, hdr, len, crc, iq] => .ok (.pktPack mant exp (hdrOfPlace hdr) len (crcOfPlace crc) (iqOfPlace iq))
    | _ => .error .operandCount
  | .pktField => match bytes with
    | [mant, exp, hdr, len, crc, iq] => .ok (.pktField mant exp (hdrOfPlace hdr) len (crcOfPlace crc) (iqOfPlace iq))
    | _ => .error .operandCount
  | .txpMake => match bytes with
    | [power, ramp] => .ok (.txpMake power ⟨ramp⟩)
    | _ => .error .operandCount
  | .irqOr => .ok (.irqOr (bytes.map flagOfPlace))
  | .statMode => match bytes with
    | [b] => .ok (.statMode b)
    | _ => .error .operandCount
  | .calAll => match bytes with
    | [] => .ok .calAll
    | _ => .error .operandCount
  | .setfreq => match bytes with
    | [a, b, c] => .ok (.setfreq ⟨a, b, c⟩)
    | _ => .error .operandCount
  | .setmod => match bytes with
    | [sf, bw, cr] => decodeMod .setmod sf bw cr
    | _ => .error .operandCount
  | .setpkt => match decodePacket bytes with
    | .ok pkt => .ok (.setpkt pkt)
    | .error e => .error e
  | .calibrate => match bytes with
    | [] => .ok .calibrate
    | _ => .error .operandCount
  | .configure => match decodeModem bytes with
    | .ok modem => .ok (.configure modem)
    | .error e => .error e
  | .send => .ok (.send bytes)

/-- The decoder, total on every request. -/
def decode (r : Request) : Except DecodeError Instr :=
  match r.sel with
  | .frame => decodeFrame r.bytes r.rlen
  | .command => decodeCommand r.bytes r.rlen
  | .operation o => if r.rlen = 0 then decodeOperation o r.bytes else .error .readCountNotZero

/-! ## Encoder -/

def encodePacket (p : PacketParams) : List Byte :=
  [p.mant, p.exp, placeOfHdr p.hdr, p.len, placeOfCrc p.crc, placeOfIq p.iq] ++ p.sync

def encodeModem (m : ModemParams) : List Byte :=
  [m.freq.b0, m.freq.b1, m.freq.b2, m.tx.power, m.tx.ramp.index,
   placeOfSf m.mod.sf, placeOfBw m.mod.bw, placeOfCr m.mod.cr] ++ encodePacket m.pkt

/-- The request of an instruction: for the framed operations the frame of R51 to R55. -/
def encode : Instr → Request
  | .cmd opc wdata rlen => ⟨.command, opc :: wdata, rlen⟩
  | .regw addr wdata => ⟨.frame, regWriteByte :: be16 addr ++ wdata, 0⟩
  | .regr addr rlen => ⟨.frame, regReadByte :: be16 addr ++ [fillerByte], rlen⟩
  | .bufw off wdata => ⟨.frame, [bufWriteByte, off] ++ wdata, 0⟩
  | .bufr off rlen => ⟨.frame, [bufReadByte, off], rlen⟩
  | .flush => ⟨.operation .flush, [], 0⟩
  | .freqHz hz => ⟨.operation .freqHz, be32 hz, 0⟩
  | .freqRaw b0 b1 b2 => ⟨.operation .freqRaw, [b0, b1, b2], 0⟩
  | .freqBytes f => ⟨.operation .freqBytes, [f.b0, f.b1, f.b2], 0⟩
  | .modPack sf bw cr => ⟨.operation .modPack, [placeOfSf sf, placeOfBw bw, placeOfCr cr], 0⟩
  | .modField sf bw cr => ⟨.operation .modField, [0, placeOfSf sf, placeOfBw bw, placeOfCr cr], 0⟩
  | .modFec sf => ⟨.operation .modFec, [placeOfSf sf], 0⟩
  | .pktPre mant exp => ⟨.operation .pktPre, [mant, exp], 0⟩
  | .pktPack mant exp hdr len crc iq => ⟨.operation .pktPack, [mant, exp, placeOfHdr hdr, len, placeOfCrc crc, placeOfIq iq], 0⟩
  | .pktField mant exp hdr len crc iq => ⟨.operation .pktField, [mant, exp, placeOfHdr hdr, len, placeOfCrc crc, placeOfIq iq], 0⟩
  | .txpMake power ramp => ⟨.operation .txpMake, [power, ramp.index], 0⟩
  | .irqOr flags => ⟨.operation .irqOr, flags.map placeOfFlag, 0⟩
  | .statMode status => ⟨.operation .statMode, [status], 0⟩
  | .calAll => ⟨.operation .calAll, [], 0⟩
  | .setfreq f => ⟨.operation .setfreq, [f.b0, f.b1, f.b2], 0⟩
  | .setmod sf bw cr => ⟨.operation .setmod, [placeOfSf sf, placeOfBw bw, placeOfCr cr], 0⟩
  | .setpkt pkt => ⟨.operation .setpkt, encodePacket pkt, 0⟩
  | .calibrate => ⟨.operation .calibrate, [], 0⟩
  | .configure modem => ⟨.operation .configure, encodeModem modem, 0⟩
  | .send payload => ⟨.operation .send, payload, 0⟩

/-! ## Words of the opcode table

The table gives the five framed operations their first frame byte (8 bits), `MOD.FIELD` a 32-bit word and
`PKT.FIELD` a 64-bit one. A frame word is laid out byte by byte from its least significant byte and
completed with zeros up to its header; the two field words give each enumeration's place in the bits where
the table puts its code. -/

/-- The low `n` bytes of a word, the least significant first. -/
def wordBytes (n w : Nat) : List Byte :=
  (List.range n).map fun k => BitVec.ofNat 8 (w >>> (8 * k))

/-- The number of header bytes of a frame, from its first byte (R51 to R55). -/
def headerLength (b : Byte) : Nat :=
  if b = regWriteByte then 3
  else if b = regReadByte then 4
  else if b = bufWriteByte then 2
  else if b = bufReadByte then 2
  else 1

/-- A frame completed with zero bytes up to its header's length. -/
def completeHeader (bytes : List Byte) : List Byte :=
  match bytes with
  | [] => []
  | b :: rest => b :: rest ++ List.replicate (headerLength b - (rest.length + 1)) 0

/-- The request a word of the opcode table stands for. -/
def tableRequest (nbits w : Nat) : Request :=
  if nbits = 0 then ⟨.operation .flush, [], 0⟩
  else if nbits = 32 then ⟨.operation .modField, be32 (BitVec.ofNat 32 w), 0⟩
  else if nbits = 64 then
    let v := BitVec.ofNat 64 w
    ⟨.operation .pktField,
      [(v.extractLsb' 48 4).setWidth 8, (v.extractLsb' 52 4).setWidth 8, v.extractLsb' 40 8,
       v.extractLsb' 32 8, v.extractLsb' 24 8, v.extractLsb' 16 8], 0⟩
  else ⟨.frame, completeHeader (wordBytes ((nbits + 7) / 8) w), 0⟩

/-- The instruction the decoder reads from a word of the opcode table. -/
def decodeTableWord (nbits w : Nat) : Option Instr :=
  match decode (tableRequest nbits w) with
  | .ok i => some i
  | .error _ => none

end Sys2Proof
end

