-- ==== Sys2Proof/Machine/State.lean ====
section
/-! DEFINITION. The state of the machine as plain data: the transport engine (10_state.md R10 to R14), the
event history (R23), the host with its sequences (43_host_sequences.md), the environment's scheduled
samples (R19, R21, R22, R27), and the state after reset (R25). The block has no memory and no control or
status register (R16; 20_memory.md). -/

namespace Sys2Proof.Machine

/-! ## Engine -/

/-- The four values of `phase` (R12). -/
inductive Phase where
  | idle | preWait | xfer | postWait
deriving DecidableEq, Repr, Inhabited

/-- Chip-select (R13). -/
inductive ChipSelect where
  | released | asserted
deriving DecidableEq, Repr, Inhabited

/-- The operation latched in `L.OP` (R10). -/
inductive OpKind where
  | cmd | regw | regr | bufw | bufr
deriving DecidableEq, Repr, Inhabited

/-- The request latch set (R10). `none` is the spec's own state "holds no value" (R15, R25), not a missing
reset value; log entry 7. -/
structure Latches where
  op    : Option OpKind
  opc   : Option Byte
  addr  : Option Half
  off   : Option Byte
  wdata : Option (List Byte)
  rlen  : Option Nat
deriving DecidableEq, Repr, Inhabited

/-- What `RSP` holds when it is not empty (R11). -/
inductive Response where
  | ok (bytes : List Byte)
  | err (e : BusErr)
deriving DecidableEq, Repr

/-! ## Event history (R23) -/

/-- Which of the two busy observations (R23). -/
inductive WaitKind where
  | pre | post
deriving DecidableEq, Repr

/-- How a transaction ended: `done`, or `failed(e, k)` after `k` frame bytes (R23). -/
inductive TxnOutcome where
  | done
  | failed (e : BusErr) (k : Nat)
deriving DecidableEq, Repr

/-- A transaction record (R23). `cut` is where the written part is split into two writes, as R56 records
it; observations ignore it (log entry 24). -/
structure Txn where
  mosi    : List Byte
  nread   : Nat
  miso    : List Byte
  outcome : TxnOutcome
  cut     : Nat
deriving DecidableEq, Repr

/-- An event of the history (R23). -/
inductive Event where
  | busyLow (w : WaitKind)
  | txn (t : Txn)
deriving DecidableEq, Repr

/-! ## Host -/

/-- What the host does with the bytes of a step's response. -/
inductive Collect where
  /-- Nothing. -/
  | ignore
  /-- A status read: decoded for the log, steering nothing (R185). -/
  | status
  /-- The IRQ status bits observed (R157 step 8). -/
  | irq
  /-- The packet status of the receive design (R158). -/
  | pktStatus
  /-- The RX buffer status of the receive design (R158). -/
  | rxBufStatus
  /-- The received payload (R158). -/
  | payload
deriving DecidableEq, Repr

/-- One step of a host sequence (43_host_sequences.md; 70_reset_and_hazards.md R198). -/
inductive SeqStep where
  /-- A framed operation with its operands, and what is done with its response. -/
  | op (d : FramedOp) (c : Collect)
  /-- Clear the IRQ status with exactly the bits observed (R157 step 9). -/
  | clearIrq
  /-- Buffer read at the offset and length the RX buffer status gave (R158). -/
  | fetchPayload
  /-- Suspend until the interrupt line is observed high (R157 step 7, R161). -/
  | waitIrq
  /-- Drive the radio's reset pin low (R198). -/
  | pinLow
  /-- Release the radio's reset pin high (R198). -/
  | pinHigh
  /-- Wait a number of milliseconds (R198). -/
  | delay (ms : Nat)
deriving DecidableEq, Repr

/-- What a sequence has read so far. -/
structure Gathered where
  irq     : List Byte
  pkt     : List Byte
  rxBuf   : List Byte
  payload : List Byte
  diag    : List (List ModeResult)
deriving DecidableEq, Repr

/-- A sequence in progress: the steps left, the response awaited, what was read. -/
structure SeqRun where
  todo   : List SeqStep
  flight : Option Collect
  got    : Gathered
deriving DecidableEq, Repr

/-- What a sequence returns (R150, R157, R159): success, with what it read, or the first error. -/
inductive SeqResult where
  | success (got : Gathered)
  | busError (e : BusErr)
deriving DecidableEq, Repr

/-- An act of the reset collaborator (R198). -/
inductive PulseEvent where
  | low
  | delayed (ms : Nat)
  | high
deriving DecidableEq, Repr

/-- An item of the host's own program: a request to present, the required receive design (R158; `true` is
the continuous timeout mode), or the radio's reset pulse (R198). -/
inductive HostItem where
  | request (r : Request)
  | receive (continuous : Bool)
  | resetRadio
deriving DecidableEq, Repr

/-- The value a codec operation answers (R18, R27). -/
inductive CodecValue where
  /-- A Frequency (R110, R111). -/
  | freq (f : Frequency)
  /-- A list of bytes (R112, R122, R132). -/
  | bytes (bs : List Byte)
  /-- One byte (R124, R130, R142). -/
  | byte (b : Byte)
  /-- A 16-bit mask (R140). -/
  | word16 (v : Half)
  /-- The 32-bit modulation field (R123). -/
  | word32 (v : BitVec 32)
  /-- The 64-bit packet field (R133). -/
  | word64 (v : BitVec 64)
  /-- The opaque pair of transmit parameters: power and ramp code (R138). -/
  | txp (power rampCode : Byte)
  /-- A circuit mode (R141). -/
  | mode (m : ModeResult)
deriving DecidableEq, Repr

/-! ## State -/

/-- The whole machine. -/
structure State where
  /-- Sequencing state (R12). -/
  phase : Phase
  /-- Frame bytes transferred in the open transaction; meaningful in `xfer` (R12). -/
  idx : Nat
  /-- Chip-select (R13). -/
  cs : ChipSelect
  /-- Request latch set (R10). -/
  latches : Latches
  /-- Read buffer (R14). -/
  rbuf : List Byte
  /-- Response (R11): empty in flight, and again when the host has taken it. -/
  rsp : Option Response
  /-- Written bytes of the open transaction record (R89). -/
  mosi : List Byte
  /-- Read bytes of the open transaction record (R90). -/
  miso : List Byte
  /-- Every byte driven on the outgoing line since chip-select was last asserted, `FILL` among them (R90,
  D6): the model's record, log entry 4. -/
  driven : List Byte
  /-- Event history, oldest first (R23). -/
  history : List Event
  /-- The value the last codec operation answered: the model's record, log entry 15. -/
  codec : Option CodecValue
  /-- The request the host presents (R69). -/
  port : Option Request
  /-- What the host will do of its own accord, in order: the model's field, log entry 2. -/
  program : List HostItem
  /-- The host sequence in progress. -/
  seq : Option SeqRun
  /-- What the last host sequence returned. -/
  seqResult : Option SeqResult
  /-- The response the host took last for a request of its own (R11, R27): the model's field, log entry 25. -/
  callResult : Option Response
  /-- The radio's reset pin (R183, R198). -/
  resetPin : Level
  /-- The record of the reset collaborator's acts (R198): the model's field. -/
  pulse : List PulseEvent
  /-- The environment's scheduled samples, the present one first: the model's field, log entry 3. -/
  env : List Pins
  /-- Steps taken: the counter the free draws are applied to, the model's field, log entry 3. -/
  tick : Nat
deriving DecidableEq, Repr

/-- The present sample of the environment: the scheduled one, or beyond the schedule a free draw. -/
def State.pins (s : State) : Pins :=
  match s.env with
  | p :: _ => p
  | [] => Config.pins s.tick

/-- The latch set in which no latch holds a value (R15, R25). -/
def Latches.empty : Latches :=
  { op := none, opc := none, addr := none, off := none, wdata := none, rlen := none }

/-- Nothing read yet. -/
def Gathered.empty : Gathered :=
  { irq := [], pkt := [], rxBuf := [], payload := [], diag := [] }

/-- The machine right after reset (R25, R195): no operation in flight, chip-select released, no response,
empty read buffer, latches without value, empty history. `idx` and the model's own fields are log entries
3 and 5. -/
def State.reset : State where
  phase := .idle
  idx := 0
  cs := .released
  latches := Latches.empty
  rbuf := []
  rsp := none
  mosi := []
  miso := []
  driven := []
  history := []
  codec := none
  port := none
  program := []
  seq := none
  seqResult := none
  callResult := none
  resetPin := .high
  pulse := []
  env := []
  tick := 0

/-! ## Reasons a step stops -/

/-- Faults: both are stops of the model in states that no run from reset reaches. -/
inductive Fault where
  /-- Raised by the transfer step when a latch its frame needs holds no value: reading one is a model fault
  (R15): "latches hold no value and reading one is a model fault" (92_eei_decisions.md D13). Safe: the model stops
  where the spec gives no step. -/
  | latchUnwritten
  /-- Raised by the transfer step when `idx` is beyond the frame: `idx` runs from 0 to its length (R12),
  and no rule of R89 to R92 applies beyond. Safe: the model stops where the spec gives no step. -/
  | indexBeyondFrame
deriving DecidableEq, Repr

/-- Refusals: what the model does not do for its caller. -/
inductive Refusal where
  /-- Raised by an arm of `exec` for an instruction without a meaning. Safe: the model stops. -/
  | notModelled (mnemonic : String)
  /-- Raised by a transport operation or a host sequence requested while `phase` is not IDLE: "the model
  refuses such a host" (R87, R201, U8). Safe: the model stops. -/
  | requestInFlight
  /-- Raised by a second caller's request while a host sequence is in progress: the caller must serialise
  access (R87, R184, R201, U8). Safe: the model stops. -/
  | sequenceInProgress
  /-- Raised by the fetch when the bytes at the port are no descriptor, which the abstract port of R69
  cannot carry. Safe: the model stops. -/
  | undecodable (e : DecodeError)
deriving DecidableEq, Repr

end Sys2Proof.Machine
end

