-- ==== Sys2Proof/Machine/Flags.lean ====
section
/-! DEFINITION. The block's only flag-like state is `RSP` (10_state.md R11): there are no condition codes,
no carry and no sticky error bit, and no codec writes a flag. The three ways `RSP` is written. -/

namespace Sys2Proof.Machine

/-- `RSP <- empty`: at acceptance (R87), and when the host has taken the response, which the block then does
not remember (R11, R27; log entry 25). -/
def State.clearResponse (s : State) : State := { s with rsp := none }

/-- `RSP <- Ok(bytes)` (R80, R86, R93). -/
def State.respondOk (bytes : List Byte) (s : State) : State := { s with rsp := some (.ok bytes) }

/-- `RSP <- Err(e)` (R91, R172). -/
def State.respondErr (e : BusErr) (s : State) : State := { s with rsp := some (.err e) }

end Sys2Proof.Machine
end

