-- ==== Sys2Proof/Machine/Operands.lean ====
section
/-! DEFINITION. Operand forms: the enumeration mappers (42_param_packers.md R120, R121, R131), the frames
of the five framed operations and their assembly from the latches (30_encoding.md R50 to R57). -/

namespace Sys2Proof.Machine

/-! ## Enumeration mappers (R120): total, one fixed byte per member; the pinned entries are R121, R131 -/

/-- `SF_CODE`; SF12 is pinned to 0xC0 (R121). -/
def sfCode (c : Catalog) : SpreadingFactor → Byte
  | .sf12 => 0xC0
  | sf => c.sfOpen sf

/-- `BW_CODE`; 200 kHz is pinned to 0x34 (R121). -/
def bwCode (c : Catalog) : Bandwidth → Byte
  | .khz200 => 0x34
  | .unlisted i => c.bwOpen i

/-- `CR_CODE`; CR4/5 is pinned to 0x01 (R121). -/
def crCode (c : Catalog) : CodingRate → Byte
  | .cr45 => 0x01
  | .unlisted i => c.crOpen i

/-- `HDR_CODE`; Explicit is pinned to 0x00 (R131). -/
def hdrCode (c : Catalog) : HeaderType → Byte
  | .explicit => 0x00
  | .unlisted i => c.hdrOpen i

/-- `CRC_CODE`; Enabled is pinned to 0x20 (R131). -/
def crcCode (c : Catalog) : CrcMode → Byte
  | .enabled => 0x20
  | .unlisted i => c.crcOpen i

/-- `IQ_CODE`; Normal is pinned to 0x40 (R131). -/
def iqCode (c : Catalog) : IqMode → Byte
  | .normal => 0x40
  | .unlisted i => c.iqOpen i

/-! ## Frames (R50) -/

/-- A frame: the header the operation fixes, the caller's bytes, and the number of bytes read after them.
-/
structure Frame where
  header : List Byte
  body   : List Byte
  reads  : Nat
deriving DecidableEq, Repr

/-- `frame_out = header ++ body` (R50). -/
def Frame.out (f : Frame) : List Byte := f.header ++ f.body

/-- A segment of a transaction (R8, R56). -/
inductive Segment where
  | write (bytes : List Byte)
  | read (n : Nat)
deriving DecidableEq, Repr

/-- The segments the spec records for a frame (R56). -/
def Frame.segments (f : Frame) : List Segment :=
  [.write f.header, .write f.body, .read f.reads]

/-- The frame of each framed operation: R51 to R55, addresses high byte first (R57). -/
def frameOf : FramedOp → Frame
  | .cmd opc wdata rlen => ⟨[opc], wdata, rlen⟩
  | .regw addr wdata => ⟨regWriteByte :: be16 addr, wdata, 0⟩
  | .regr addr rlen => ⟨regReadByte :: be16 addr ++ [fillerByte], [], rlen⟩
  | .bufw off wdata => ⟨[bufWriteByte, off], wdata, 0⟩
  | .bufr off rlen => ⟨[bufReadByte, off], [], rlen⟩

/-- What the latches hold once a request is accepted: every operand of the request; a latch the request
has no operand for holds no value (R10, R15, R87; log entry 7). -/
def Latches.hold : FramedOp → Latches
  | .cmd opc wdata rlen =>
    { op := some .cmd, opc := some opc, addr := none, off := none, wdata := some wdata, rlen := some rlen }
  | .regw addr wdata =>
    { op := some .regw, opc := none, addr := some addr, off := none, wdata := some wdata, rlen := none }
  | .regr addr rlen =>
    { op := some .regr, opc := none, addr := some addr, off := none, wdata := none, rlen := some rlen }
  | .bufw off wdata =>
    { op := some .bufw, opc := none, addr := none, off := some off, wdata := some wdata, rlen := none }
  | .bufr off rlen =>
    { op := some .bufr, opc := none, addr := none, off := some off, wdata := none, rlen := some rlen }

/-- The operation the latches describe, when every latch it reads holds a value (R10, R15). -/
def Latches.held (l : Latches) : Option FramedOp :=
  match l.op with
  | none => none
  | some .cmd => match l.opc, l.wdata, l.rlen with
    | some opc, some wdata, some rlen => some (.cmd opc wdata rlen)
    | _, _, _ => none
  | some .regw => match l.addr, l.wdata with
    | some addr, some wdata => some (.regw addr wdata)
    | _, _ => none
  | some .regr => match l.addr, l.rlen with
    | some addr, some rlen => some (.regr addr rlen)
    | _, _ => none
  | some .bufw => match l.off, l.wdata with
    | some off, some wdata => some (.bufw off wdata)
    | _, _ => none
  | some .bufr => match l.off, l.rlen with
    | some off, some rlen => some (.bufr off rlen)
    | _, _ => none

/-- The frame the latches give (R50 to R55). -/
def Latches.frame (l : Latches) : Option Frame :=
  match l.held with
  | some d => some (frameOf d)
  | none => none

end Sys2Proof.Machine
end

