-- ==== Sys2Proof/Machine/Ops.lean ====
section
/-! DEFINITION. The shared operations of the transport engine: acceptance (40_transport.md R87), the bus
and wait steps (R88 to R90, R92, R93), raising a bus error (60_exceptions.md R172), a codec's answer, and
the passing of one sample of the environment. There is no return from an exception: the error is a value
and the engine is IDLE after it (R177). -/

namespace Sys2Proof.Machine

/-- Accept a framed operation: every latch takes the request's operands, `rbuf` and `RSP` are emptied, the
engine waits for busy low (R87). -/
def accept (d : FramedOp) (s : State) : State :=
  { s.clearResponse with latches := Latches.hold d, rbuf := [], phase := .preWait }

/-- Pre-wait: busy observed low, chip-select asserted and the transaction opened in one step; while busy is
high the engine holds (R88). -/
def preWaitMove (p : Pins) (s : State) : State :=
  match p.busy with
  | .high => s
  | .low =>
    { s with
      history := s.history ++ [.busyLow .pre], cs := .asserted, idx := 0, phase := .xfer
      mosi := [], miso := [], driven := [] }

/-- Write a byte of the frame; the byte received meanwhile is discarded (R89). -/
def writeByte (b : Byte) (s : State) : State :=
  { s with mosi := s.mosi ++ [b], driven := s.driven ++ [b], idx := s.idx + 1 }

/-- Read a byte: the oracle's byte goes to the read buffer and the record, `FILL` goes out (R90). -/
def readByte (p : Pins) (s : State) : State :=
  { s with
    rbuf := s.rbuf ++ [p.miso], miso := s.miso ++ [p.miso]
    driven := s.driven ++ [Config.fill s.tick], idx := s.idx + 1 }

/-- The record of the open transaction, closed with an outcome (R23). -/
def closedTxn (f : Frame) (o : TxnOutcome) (s : State) : Txn :=
  { mosi := s.mosi, nread := f.reads, miso := s.miso, outcome := o, cut := f.header.length }

/-- Chip-select released and the transaction record closed (R91, R92). -/
def closeTxn (f : Frame) (o : TxnOutcome) (s : State) : State :=
  { s with cs := .released, history := s.history ++ [.txn (closedTxn f o s)], mosi := [], miso := [] }

/-- `raise BusError(e)`, the block's one exception: the record closes with the number of frame bytes
transferred, chip-select is released, the read buffer is discarded, the response is the error, the engine
is IDLE; no post-wait (R91, R172). The rest is the reset state (R176). -/
def raiseBusError (f : Frame) (e : BusErr) (s : State) : State :=
  { (closeTxn f (.failed e s.idx) s).respondErr e with
    rbuf := [], phase := .idle, idx := 0, latches := Latches.empty }

/-- Release at the end of the frame (R92). -/
def release (f : Frame) (s : State) : State :=
  { closeTxn f .done s with phase := .postWait }

/-- Post-wait: busy observed low ends the operation with `Ok(rbuf)`; while busy is high the engine holds
(R93). -/
def postWaitMove (p : Pins) (s : State) : State :=
  match p.busy with
  | .high => s
  | .low => { s.respondOk s.rbuf with history := s.history ++ [.busyLow .post], phase := .idle }

/-- One event of the open transaction of frame `f`: the bus fails (R91), or carries the next byte of the
written part (R89), then of the read part (R90), or the release (R92). -/
def busEvent (f : Frame) (p : Pins) (s : State) : State :=
  match p.bus with
  | some e => raiseBusError f e s
  | none =>
    match f.out[s.idx]? with
    | some b => writeByte b s
    | none => if s.idx < f.out.length + f.reads then readByte p s else release f s

/-- The transfer step (R89 to R92). It reads the latches; "latches hold no value and reading one is a model
fault" where no accepted request has written them (92_eei_decisions.md D13, R15). Its position lies within the
frame (R12). -/
def xferMove (p : Pins) (s : State) : Host.Outcome State Fault Refusal :=
  match s.latches.frame with
  | none => .fault .latchUnwritten
  | some f =>
    if s.idx ≤ f.out.length + f.reads then .next (busEvent f p s) else .fault .indexBeyondFrame

/-- A codec's answer: combinational, no bus, no flag, no other state (R27; log entry 15). -/
def answer (v : CodecValue) (s : State) : State := { s with codec := some v }

/-- One step has passed: the next sample of the environment becomes the present one. -/
def passSample (s : State) : State := { s with env := s.env.tail, tick := s.tick + 1 }

/-- The sample passes when a step gives a next state. -/
def settle : Host.Outcome State Fault Refusal → Host.Outcome State Fault Refusal
  | .next s => .next (passSample s)
  | .fault r => .fault r
  | .refused r => .refused r

end Sys2Proof.Machine
end

