-- ==== Sys2Proof/Machine/Frequency.lean ====
section
/-! DEFINITION. The frequency codec (41_frequency_codec.md R110 to R117): combinational, encode only
(R115). -/

namespace Sys2Proof.Machine

/-- `steps = floor(hz * 2^18 / 52 000 000)`, exact (R110, R113). -/
def freqSteps (hz : Nat) : Nat := hz * 2 ^ 18 / 52000000

/-- The low 24 bits of `steps`, most significant byte first (R58, R110). -/
def freqOfSteps (steps : Nat) : Frequency :=
  let t := BitVec.ofNat 24 steps
  ⟨t.extractLsb' 16 8, t.extractLsb' 8 8, t.extractLsb' 0 8⟩

/-- The canonical constructor (R110). -/
def freqOfHz (hz : BitVec 32) : Frequency := freqOfSteps (freqSteps hz.toNat)

/-- The bytes a Frequency holds (R112). -/
def freqAsBytes (f : Frequency) : List Byte := [f.b0, f.b1, f.b2]

/-- `FREQ.HZ hz` (R110). -/
def execFreqHz (hz : BitVec 32) (s : State) : Host.Outcome State Fault Refusal :=
  .next (answer (.freq (freqOfHz hz)) s)

/-- `FREQ.RAW [b0, b1, b2]`: no arithmetic, no check (R111). -/
def execFreqRaw (b0 b1 b2 : Byte) (s : State) : Host.Outcome State Fault Refusal :=
  .next (answer (.freq ⟨b0, b1, b2⟩) s)

/-- `FREQ.BYTES f` (R112). -/
def execFreqBytes (f : Frequency) (s : State) : Host.Outcome State Fault Refusal :=
  .next (answer (.bytes (freqAsBytes f)) s)

end Sys2Proof.Machine
end

