-- ==== Sys2Proof/Machine/Packers.lean ====
section
/-! DEFINITION. The modulation, packet and auxiliary packers (42_param_packers.md R122 to R142): pure
functions of their operands and of the catalog (R143); they touch no bus and hold no state. -/

namespace Sys2Proof.Machine

/-! ## Modulation parameters -/

/-- `[sf_code, bw_code, cr_code]` (R59, R122). -/
def modPack (c : Catalog) (m : ModulationParams) : List Byte :=
  [sfCode c m.sf, bwCode c m.bw, crCode c m.cr]

/-- The 32-bit field: a zero pad byte, then the three codes (R59, R123). -/
def modField (c : Catalog) (m : ModulationParams) : BitVec 32 :=
  0#8 ++ sfCode c m.sf ++ bwCode c m.bw ++ crCode c m.cr

/-- The FEC byte of a spreading factor (R61, R124). -/
def modFec (c : Catalog) : SpreadingFactor → Byte
  | .sf5 => c.fecA
  | .sf6 => c.fecA
  | .sf7 => c.fecB
  | .sf8 => c.fecB
  | .sf9 => c.fecC
  | .sf10 => c.fecC
  | .sf11 => c.fecC
  | .sf12 => c.fecC

/-! ## Packet parameters -/

/-- `(mant & 0xF) | ((exp << 4) & 0xFF)` (R130, D10). -/
def pktPre (mant exp : Byte) : Byte := (mant &&& 0x0F#8) ||| (exp <<< (4 : Nat))

/-- `[preamble, header, payload_len, crc, iq, 0, 0]`; the sync word is not encoded (R60, R132, R134). -/
def pktPack (c : Catalog) (p : PacketParams) : List Byte :=
  [pktPre p.mant p.exp, hdrCode c p.hdr, p.len, crcCode c p.crc, iqCode c p.iq, 0, 0]

/-- The 64-bit field: a zero pad byte, then the seven bytes (R60, R133). -/
def pktField (c : Catalog) (p : PacketParams) : BitVec 64 :=
  0#8 ++ pktPre p.mant p.exp ++ hdrCode c p.hdr ++ p.len ++ crcCode c p.crc ++ iqCode c p.iq ++ 0#8 ++ 0#8

/-! ## Interrupt mask, status, calibration -/

/-- Bit `n` of a 16-bit mask. -/
def maskBit (n : Fin 16) : Half := 1#16 <<< n.val

/-- The union of the flags' bits; the empty set gives 0 (R62, R140). -/
def irqOr (c : Catalog) (flags : List IrqFlag) : Half :=
  flags.foldr (fun f acc => maskBit (c.irqBit f) ||| acc) 0

/-- The circuit-mode sub-field of a status byte, bits `modeHi` down to `modeLo` (R6, R63). -/
def modeBits (c : Catalog) (status : Byte) : Byte :=
  (status.extractLsb' c.modeLo.val (c.modeHi.val + 1 - c.modeLo.val)).setWidth 8

/-- The members of the circuit-mode enumeration: the four named ones and those behind the dots (R63). -/
def modeMembers (c : Catalog) : List CircuitMode :=
  [.standbyRc, .fs, .tx, .rx] ++ c.modeUnlisted.map .unlisted

/-- Look the sub-field up in the enumeration; a code outside it is `unknown(code)` (R141, U6). -/
def statMode (c : Catalog) (status : Byte) : ModeResult :=
  match (modeMembers c).find? (fun m => c.modeCode m == modeBits c status) with
  | some m => .known m
  | none => .unknown (modeBits c status)

/-- The place of a calibration sub-block among the six. -/
def calPlace : CalBlock → Fin 8
  | .rc64k => 0
  | .rc13m => 1
  | .pll => 2
  | .adcPulse => 3
  | .adcBulkN => 4
  | .adcBulkP => 5

/-- `CAL_BIT` (R64, R142). -/
def calBit (c : Catalog) (b : CalBlock) : Fin 8 := c.calPerm (calPlace b)

/-- The enable bits of all six sub-blocks in one byte (R142). -/
def calAll (c : Catalog) : Byte :=
  [CalBlock.rc64k, .rc13m, .pll, .adcPulse, .adcBulkN, .adcBulkP].foldr
    (fun b acc => (1#8 <<< (calBit c b).val) ||| acc) 0

/-! ## Operations -/

/-- `MOD.PACK` (R122). -/
def execModPack (sf : SpreadingFactor) (bw : Bandwidth) (cr : CodingRate) (s : State) : Host.Outcome State Fault Refusal :=
  .next (answer (.bytes (modPack Config.catalog ⟨sf, bw, cr⟩)) s)

/-- `MOD.FIELD` (R123). -/
def execModField (sf : SpreadingFactor) (bw : Bandwidth) (cr : CodingRate) (s : State) : Host.Outcome State Fault Refusal :=
  .next (answer (.word32 (modField Config.catalog ⟨sf, bw, cr⟩)) s)

/-- `MOD.FEC` (R124). -/
def execModFec (sf : SpreadingFactor) (s : State) : Host.Outcome State Fault Refusal :=
  .next (answer (.byte (modFec Config.catalog sf)) s)

/-- `PKT.PRE` (R130). -/
def execPktPre (mant exp : Byte) (s : State) : Host.Outcome State Fault Refusal :=
  .next (answer (.byte (pktPre mant exp)) s)

/-- `PKT.PACK` (R132): the sync word is no operand. -/
def execPktPack (mant exp : Byte) (hdr : HeaderType) (len : Byte) (crc : CrcMode) (iq : IqMode) (s : State) :
    Host.Outcome State Fault Refusal :=
  .next (answer (.bytes (pktPack Config.catalog ⟨mant, exp, hdr, len, crc, iq, []⟩)) s)

/-- `PKT.FIELD` (R133). -/
def execPktField (mant exp : Byte) (hdr : HeaderType) (len : Byte) (crc : CrcMode) (iq : IqMode) (s : State) :
    Host.Outcome State Fault Refusal :=
  .next (answer (.word64 (pktField Config.catalog ⟨mant, exp, hdr, len, crc, iq, []⟩)) s)

/-- `TXP.MAKE`: the opaque pair, not packed (R138). -/
def execTxpMake (power : Byte) (ramp : RampTime) (s : State) : Host.Outcome State Fault Refusal :=
  .next (answer (.txp power (Config.catalog.rampCode ramp)) s)

/-- `IRQ.OR` (R140). -/
def execIrqOr (flags : List IrqFlag) (s : State) : Host.Outcome State Fault Refusal :=
  .next (answer (.word16 (irqOr Config.catalog flags)) s)

/-- `STAT.MODE` (R141). -/
def execStatMode (status : Byte) (s : State) : Host.Outcome State Fault Refusal :=
  .next (answer (.mode (statMode Config.catalog status)) s)

/-- `CAL.ALL` (R142). -/
def execCalAll (s : State) : Host.Outcome State Fault Refusal :=
  .next (answer (.byte (calAll Config.catalog)) s)

end Sys2Proof.Machine
end

