-- ==== Sys2Proof/Machine/Transport.lean ====
section
/-! DEFINITION. The transport operations (40_transport.md R81 to R86). A framed operation is a request that
the engine accepts (R87); the engine's own steps then carry it out (R88 to R93, the normative small-step
form of R80). -/

namespace Sys2Proof.Machine

/-- Request a framed operation: accepted when the engine is IDLE, the host is refused otherwise (R87). -/
def request (d : FramedOp) (s : State) : Host.Outcome State Fault Refusal :=
  if s.phase = .idle then .next (accept d s) else .refused .requestInFlight

/-- `CMD opc, wdata, M` (R81): any opcode, none refused (R66). -/
def execCmd (opc : Byte) (wdata : List Byte) (rlen : Nat) (s : State) : Host.Outcome State Fault Refusal :=
  request (.cmd opc wdata rlen) s

/-- `REGW addr, wdata` (R82). -/
def execRegw (addr : Half) (wdata : List Byte) (s : State) : Host.Outcome State Fault Refusal :=
  request (.regw addr wdata) s

/-- `REGR addr, M` (R83). -/
def execRegr (addr : Half) (rlen : Nat) (s : State) : Host.Outcome State Fault Refusal :=
  request (.regr addr rlen) s

/-- `BUFW off, wdata` (R84). -/
def execBufw (off : Byte) (wdata : List Byte) (s : State) : Host.Outcome State Fault Refusal :=
  request (.bufw off wdata) s

/-- `BUFR off, M` (R85). -/
def execBufr (off : Byte) (rlen : Nat) (s : State) : Host.Outcome State Fault Refusal :=
  request (.bufr off rlen) s

/-- `FLUSH` (R86): answered at once with `Ok([])`; no wait, no bus, nothing latched. -/
def execFlush (s : State) : Host.Outcome State Fault Refusal :=
  if s.phase = .idle then .next (s.respondOk []) else .refused .requestInFlight

end Sys2Proof.Machine
end

