-- ==== Sys2Proof/Machine/Sequencer.lean ====
section
/-! DEFINITION. The host agent (10_state.md R27, 43_host_sequences.md): how a sequence goes from step to
step, how it ends, and what each sequence expands to. A sequence is a list of steps over the block's
operations; its catalog values come from the catalog given. -/

namespace Sys2Proof.Machine

/-! ## Running a sequence -/

/-- What the host keeps of a response's bytes. Status reads are decoded for the log (R185). -/
def Gathered.take (c : Catalog) (k : Collect) (bytes : List Byte) (g : Gathered) : Gathered :=
  match k with
  | .ignore => g
  | .status => { g with diag := g.diag ++ [bytes.map (statMode c)] }
  | .irq => { g with irq := bytes }
  | .pktStatus => { g with pkt := bytes }
  | .rxBufStatus => { g with rxBuf := bytes }
  | .payload => { g with payload := bytes }

/-- Issue a framed operation as a step of the sequence and await its response. -/
def issueOp (d : FramedOp) (k : Collect) (rest : List SeqStep) (got : Gathered) (s : State) : State :=
  accept d { s with seq := some { todo := rest, flight := some k, got := got } }

/-- One step of a sequence, with `rest` left after it. The interrupt wait ends when the line is observed
high and holds while it is low (R161); a delay holds until it has elapsed (R198). -/
def issueStep (c : Catalog) (p : Pins) (st : SeqStep) (rest : List SeqStep) (got : Gathered) (s : State) : State :=
  let goOn (s : State) : State := { s with seq := some { todo := rest, flight := none, got := got } }
  match st with
  | .op d k => issueOp d k rest got s
  | .clearIrq => issueOp (.cmd c.opcClrIrqStatus got.irq 0) .ignore rest got s
  | .fetchPayload => issueOp (.bufr (c.rxOff got.rxBuf) (c.rxLen got.rxBuf)) .payload rest got s
  | .waitIrq => match p.irq with
    | .low => s
    | .high => goOn s
  | .pinLow => goOn { s with resetPin := .low, pulse := s.pulse ++ [.low] }
  | .pinHigh => goOn { s with resetPin := .high, pulse := s.pulse ++ [.high] }
  | .delay ms => if p.elapsed then goOn { s with pulse := s.pulse ++ [.delayed ms] } else s

/-- The host's move in a sequence, the engine IDLE: take the awaited response, which leaves `RSP` empty (R11),
abort at the first error with no later step issued (R159), go on to the next step, or return success after the
last (R150, R157). -/
def seqMove (c : Catalog) (p : Pins) (run : SeqRun) (s : State) : State :=
  match run.flight with
  | some k =>
    match s.rsp with
    | none => s
    | some (.err e) => { s.clearResponse with seq := none, seqResult := some (.busError e) }
    | some (.ok bytes) => { s.clearResponse with seq := some { run with flight := none, got := run.got.take c k bytes } }
  | none =>
    match run.todo with
    | [] => { s with seq := none, seqResult := some (.success run.got) }
    | st :: rest => issueStep c p st rest run.got s

/-- Begin a sequence: its first step is issued at once. -/
def beginSeq (c : Catalog) (steps : List SeqStep) (s : State) : State :=
  seqMove c s.pins { todo := steps, flight := none, got := Gathered.empty } { s with seqResult := none }

/-- A host sequence called by the caller: refused while an operation is in flight or another sequence is in
progress, the caller having to serialise (R87, R184, R201, U8). -/
def startSeq (steps : List SeqStep) (s : State) : Host.Outcome State Fault Refusal :=
  if s.phase = .idle then
    match s.seq with
    | none => .next (beginSeq Config.catalog steps s)
    | some _ => .refused .sequenceInProgress
  else .refused .requestInFlight

/-! ## What each sequence expands to -/

/-- A command that reads nothing and whose response is only checked. -/
def plainCmd (opc : Byte) (input : List Byte) : SeqStep := .op (.cmd opc input 0) .ignore

/-- Standby on the RC clock (R151). -/
def standbySteps (c : Catalog) : List SeqStep := [plainCmd c.opcSetStandby [c.rcClockCode]]

/-- Set RF frequency: the three bytes, unpadded (R152). -/
def setfreqSteps (c : Catalog) (f : Frequency) : List SeqStep := [plainCmd c.opcSetRfFrequency (freqAsBytes f)]

/-- Set packet type LoRa (R155). -/
def packetTypeSteps (c : Catalog) : List SeqStep := [plainCmd c.opcSetPacketType [c.loraCode]]

/-- The input bytes of the modulation command: the padded field or the bare bytes (R153, D12). -/
def modInput (c : Catalog) (m : ModulationParams) : List Byte :=
  if c.padOnWire then be32 (modField c m) else modPack c m

/-- Set modulation parameters, then the two workaround writes (R125, R153). -/
def setmodSteps (c : Catalog) (m : ModulationParams) : List SeqStep :=
  [plainCmd c.opcSetModulationParams (modInput c m),
   .op (.regw c.fecRegAddr [modFec c m.sf]) .ignore,
   .op (.regw c.fecCorrAddr c.fecCorrValue) .ignore]

/-- The input bytes of the packet command (R154, D12). -/
def pktInput (c : Catalog) (p : PacketParams) : List Byte :=
  if c.padOnWire then be64 (pktField c p) else pktPack c p

/-- Set packet parameters (R154). -/
def setpktSteps (c : Catalog) (p : PacketParams) : List SeqStep := [plainCmd c.opcSetPacketParams (pktInput c p)]

/-- Set tx parameters, in the catalog's layout (R138, R155). -/
def txParamsSteps (c : Catalog) (t : TxParams) : List SeqStep :=
  [plainCmd c.opcSetTxParams (c.txpBytes t.power (c.rampCode t.ramp))]

/-- Calibrate: one command with all six enable bits (R156). -/
def calibrateSteps (c : Catalog) : List SeqStep := [plainCmd c.opcCalibrate [calAll c]]

/-- Configure, strictly ordered (R150). -/
def configureSteps (c : Catalog) (m : ModemParams) : List SeqStep :=
  standbySteps c ++ setfreqSteps c m.freq ++ packetTypeSteps c ++ setmodSteps c m.mod ++
    setpktSteps c m.pkt ++ txParamsSteps c m.tx

/-- The routing mask of line `n`: the set on the primary line, zero on the others (R140, R157). -/
def routing (c : Catalog) (n : Fin 3) (set : Half) : Half := if n = c.primaryDio then set else 0

/-- Program the interrupt mask with a set of flags, routed to the primary line only (R140, R157 step 4). -/
def dioMaskSteps (c : Catalog) (flags : List IrqFlag) : List SeqStep :=
  let set := irqOr c flags
  [plainCmd c.opcSetDioIrqParams (c.maskBytes set (routing c 0 set) (routing c 1 set) (routing c 2 set))]

/-- A diagnostic status read (R157 steps 3 and 6). -/
def statusSteps (c : Catalog) : List SeqStep := [.op (.cmd c.opcGetStatus [] c.statusLen) .status]

/-- Read the IRQ status, two bytes (R37, R157 step 8). -/
def irqReadStep (c : Catalog) : SeqStep := .op (.cmd c.opcGetIrqStatus [] 2) .irq

/-- Send, in strict order (R157). -/
def sendSteps (c : Catalog) (payload : List Byte) : List SeqStep :=
  [plainCmd c.opcSetBufferBaseAddress [0x00, 0x00],
   .op (.bufw 0x00 payload) .ignore] ++
  statusSteps c ++
  dioMaskSteps c [.txDone, .rxTxTimeout, .crcError] ++
  [plainCmd c.opcSetTx c.txSingleShot] ++
  statusSteps c ++
  [.waitIrq, irqReadStep c, .clearIrq]

/-- The required receive design (R158). The IRQ status is read at a free place between the wait and the
clear (C10; DESIGN CHOICE, log entry 19), by the command of send's step 8, and the mask is routed to the primary
line as in send: both by "mirrors send's protocol exactly" (PRESUMED, log entry 17). The input bytes of the
packet-status and RX-buffer-status commands, of which R158 gives the outputs only, are entries of the catalog
(N16, log entry 19). -/
def receiveSteps (c : Catalog) (continuous : Bool) : List SeqStep :=
  dioMaskSteps c [.rxDone, .crcError, .rxTxTimeout] ++
  [plainCmd c.opcSetRx (if continuous then c.rxContinuous else c.rxSingle), .waitIrq] ++
  [SeqStep.op (.cmd c.opcGetPacketStatus c.pktStatusIn c.pktStatusLen) .pktStatus,
   .op (.cmd c.opcGetRxBufferStatus c.rxBufStatusIn c.rxBufStatusLen) .rxBufStatus,
   .fetchPayload].insertIdx c.rxIrqSlot.val (irqReadStep c) ++
  [.clearIrq]

/-- The reset pulse of the radio: low, at least 10 ms, high, at least 10 ms (R198). -/
def resetPulseSteps (c : Catalog) : List SeqStep :=
  [.pinLow, .delay (10 + c.resetLowExtra), .pinHigh, .delay (10 + c.resetSettleExtra)]

/-! ## The host's move -/

/-- The host takes the response of a request of its own: `RSP` is empty after it (R11, R27, R177). -/
def takeResponse (r : Response) (s : State) : State := { s.clearResponse with callResult := some r }

/-- The next item of the host's program, if any: a request is put at the port (R163), a host program begun. -/
def programMove (c : Catalog) (s : State) : State :=
  match s.program with
  | [] => s
  | .request r :: rest => { s with port := some r, program := rest }
  | .receive continuous :: rest => beginSeq c (receiveSteps c continuous) { s with program := rest }
  | .resetRadio :: rest => beginSeq c (resetPulseSteps c) { s with program := rest }

/-- The host's move when the engine is IDLE and nothing is at the port: go on with the sequence in progress,
else take the response that stands in `RSP`, for which it waits before the next request (R163), else take up
the next item of its program, else nothing. -/
def hostMove (c : Catalog) (p : Pins) (s : State) : State :=
  match s.seq with
  | some run => seqMove c p run s
  | none =>
    match s.rsp with
    | some r => takeResponse r s
    | none => programMove c s

end Sys2Proof.Machine
end

