-- ==== Sys2Proof/Machine/Sequences.lean ====
section
/-! DEFINITION. The pseudo-instructions (30_encoding.md R71, 43_host_sequences.md): each is the host
sequence it expands to, whose first operation is requested at once and whose later steps the host's own
moves issue. -/

namespace Sys2Proof.Machine

/-- `SETFREQ f` (R152). -/
def execSetfreq (f : Frequency) (s : State) : Host.Outcome State Fault Refusal :=
  startSeq (setfreqSteps Config.catalog f) s

/-- `SETMOD sf, bw, cr` (R153). -/
def execSetmod (sf : SpreadingFactor) (bw : Bandwidth) (cr : CodingRate) (s : State) : Host.Outcome State Fault Refusal :=
  startSeq (setmodSteps Config.catalog ⟨sf, bw, cr⟩) s

/-- `SETPKT pkt` (R154). -/
def execSetpkt (pkt : PacketParams) (s : State) : Host.Outcome State Fault Refusal :=
  startSeq (setpktSteps Config.catalog pkt) s

/-- `CALIBRATE` (R156). -/
def execCalibrate (s : State) : Host.Outcome State Fault Refusal :=
  startSeq (calibrateSteps Config.catalog) s

/-- `CONFIGURE modem` (R150). -/
def execConfigure (modem : ModemParams) (s : State) : Host.Outcome State Fault Refusal :=
  startSeq (configureSteps Config.catalog modem) s

/-- `SEND payload` (R157). -/
def execSend (payload : List Byte) (s : State) : Host.Outcome State Fault Refusal :=
  startSeq (sendSteps Config.catalog payload) s

end Sys2Proof.Machine
end

