-- ==== Sys2Proof/Machine/Dispatch.lean ====
section
/-! DEFINITION. The meaning of every instruction: one arm each, one direct call of its meaning. -/

namespace Sys2Proof.Machine

def exec (i : Instr) (s : State) : Host.Outcome State Fault Refusal :=
  match i with
  | .cmd opc wdata rlen => Sys2Proof.Machine.execCmd opc wdata rlen s
  | .regw addr wdata => Sys2Proof.Machine.execRegw addr wdata s
  | .regr addr rlen => Sys2Proof.Machine.execRegr addr rlen s
  | .bufw off wdata => Sys2Proof.Machine.execBufw off wdata s
  | .bufr off rlen => Sys2Proof.Machine.execBufr off rlen s
  | .flush => Sys2Proof.Machine.execFlush s
  | .freqHz hz => Sys2Proof.Machine.execFreqHz hz s
  | .freqRaw b0 b1 b2 => Sys2Proof.Machine.execFreqRaw b0 b1 b2 s
  | .freqBytes f => Sys2Proof.Machine.execFreqBytes f s
  | .modPack sf bw cr => Sys2Proof.Machine.execModPack sf bw cr s
  | .modField sf bw cr => Sys2Proof.Machine.execModField sf bw cr s
  | .modFec sf => Sys2Proof.Machine.execModFec sf s
  | .pktPre mant exp => Sys2Proof.Machine.execPktPre mant exp s
  | .pktPack mant exp hdr len crc iq => Sys2Proof.Machine.execPktPack mant exp hdr len crc iq s
  | .pktField mant exp hdr len crc iq => Sys2Proof.Machine.execPktField mant exp hdr len crc iq s
  | .txpMake power ramp => Sys2Proof.Machine.execTxpMake power ramp s
  | .irqOr flags => Sys2Proof.Machine.execIrqOr flags s
  | .statMode status => Sys2Proof.Machine.execStatMode status s
  | .calAll => Sys2Proof.Machine.execCalAll s
  | .setfreq f => Sys2Proof.Machine.execSetfreq f s
  | .setmod sf bw cr => Sys2Proof.Machine.execSetmod sf bw cr s
  | .setpkt pkt => Sys2Proof.Machine.execSetpkt pkt s
  | .calibrate => Sys2Proof.Machine.execCalibrate s
  | .configure modem => Sys2Proof.Machine.execConfigure modem s
  | .send payload => Sys2Proof.Machine.execSend payload s

end Sys2Proof.Machine
end

