-- ==== Sys2Proof/Machine/Fetch.lean ====
section
/-! DEFINITION. What a step does apart from `exec`: fetch the request at the port (30_encoding.md R69,
43_host_sequences.md R163), or, with nothing at the port, let the engine move unless it is IDLE, and then
the host (10_state.md R27). -/

namespace Sys2Proof.Machine

/-- Codec operations: functions of the block, which need neither the engine nor the sequencer (R27, R163).
-/
def isCodec : Instr → Bool
  | .cmd _ _ _ => false
  | .regw _ _ => false
  | .regr _ _ => false
  | .bufw _ _ => false
  | .bufr _ _ => false
  | .flush => false
  | .freqHz _ => true
  | .freqRaw _ _ _ => true
  | .freqBytes _ => true
  | .modPack _ _ _ => true
  | .modField _ _ _ => true
  | .modFec _ => true
  | .pktPre _ _ => true
  | .pktPack _ _ _ _ _ _ => true
  | .pktField _ _ _ _ _ _ => true
  | .txpMake _ _ => true
  | .irqOr _ => true
  | .statMode _ => true
  | .calAll => true
  | .setfreq _ => false
  | .setmod _ _ _ => false
  | .setpkt _ => false
  | .calibrate => false
  | .configure _ => false
  | .send _ => false

/-- The instruction at the port, if any. A request that is no descriptor is refused; so is a second
caller's, while a host sequence is in progress (U8). -/
def fetch (s : State) : Except Refusal (Option Instr) :=
  match s.port with
  | none => .ok none
  | some r =>
    match decode r with
    | .error e => .error (.undecodable e)
    | .ok i => if s.seq.isSome && !isCodec i then .error .sequenceInProgress else .ok (some i)

/-- The port once its request has been taken. -/
def takePort (s : State) : State := { s with port := none }

/-- The move of the agent whose turn it is when nothing is at the port. -/
def agentMove (s : State) : Host.Outcome State Fault Refusal :=
  match s.phase with
  | .idle => .next (hostMove Config.catalog s.pins s)
  | .preWait => .next (preWaitMove s.pins s)
  | .xfer => xferMove s.pins s
  | .postWait => .next (postWaitMove s.pins s)

/-- Place a request at the port. -/
def placeRequest (r : Request) (s : State) : State := { s with port := some r }

end Sys2Proof.Machine
end

