-- ==== Sys2Proof/Machine/Step.lean ====
section
/-! DEFINITION. One step of the machine: the request at the port is decoded and run, or the agent whose
turn it is moves; then one sample of the environment passes. -/

namespace Sys2Proof.Machine

/-- One step. -/
def step (s : State) : Host.Outcome State Fault Refusal :=
  match fetch s with
  | .error r => .refused r
  | .ok (some i) => settle (exec i (takePort s))
  | .ok none => settle (agentMove s)

/-- A word of the opcode table placed where the step fetches its next instruction: at the port. Nothing
else is needed, since a request at the port comes before any other move (log entry 2). -/
def State.withFetchWord (s : State) (nbits w : Nat) : State :=
  placeRequest (tableRequest nbits w) s

end Sys2Proof.Machine
end

