-- ==== Sys2Proof/Safety.lean ====
section
/-! DEFINITION. What claims speak of: cooperative environments and the time a run takes, what a transaction
adds to the history (40_transport.md R96), the observation of 10_state.md R23, the shape of a history, and
the invariant of the machine. -/

namespace Sys2Proof.Machine

/-! ## Runs and environments -/

/-- Steps of the machine, stopping at the first fault or refusal. -/
abbrev run (n : Nat) (s : State) : Host.Outcome State Fault Refusal := Sys2Proof.core.run n s

/-- A sample in which nothing stands in the way of the engine: busy is low and the bus carries. -/
abbrev Cooperative (p : Pins) : Prop := p.busy = .low ∧ p.bus = none

/-- The fairness assumption on the radio (R19): whenever a run from `s` is in a wait of the engine, busy is low at
some later moment at which the engine, in such a wait still, observes it. Nothing in the machine makes it so: a run
in which busy never falls holds for ever (R95). -/
def BusyFair (s : State) : Prop :=
  ∀ n t, run n s = .next t → t.phase = .preWait ∨ t.phase = .postWait →
    ∃ m u, run m t = .next u ∧ u.phase = t.phase ∧ u.port = none ∧ u.pins.busy = .low

/-- The premise on the radio that R22 asks of a claim that a sequence ends: whenever a run from `s` is at an
interrupt wait, the line is high at some later moment at which the host, at that wait still, observes it. -/
def IrqFair (s : State) : Prop :=
  ∀ n t todo got, run n s = .next t → t.phase = .idle → t.seq = some ⟨.waitIrq :: todo, none, got⟩ →
    ∃ m u, run m t = .next u ∧ u.phase = .idle ∧ u.port = none ∧ u.seq = some ⟨.waitIrq :: todo, none, got⟩ ∧
      u.pins.irq = .high

/-- Steps of the engine for one framed operation that is not held: pre-wait, one per frame byte, release,
post-wait (R88 to R93). -/
def frameTime (f : Frame) : Nat := f.out.length + f.reads + 3

/-- Steps of the machine for one step of a sequence that is not held: an operation is issued, carried out
and its response taken; the interrupt wait and the collaborator's acts take one step. A clear carries two
observed bytes. -/
def stepTime : SeqStep → Nat
  | .op d _ => frameTime (frameOf d) + 2
  | .clearIrq => 8
  | .fetchPayload => 0
  | .waitIrq => 1
  | .pinLow => 1
  | .pinHigh => 1
  | .delay _ => 1

/-- Steps of the machine from the call of a sequence to its return, when nothing holds it. -/
def seqTime (steps : List SeqStep) : Nat := (steps.map stepTime).sum

/-! ## What a transaction adds to the history (R96) -/

/-- The bytes the oracle presents at the read part, the first sample being the pre-wait's. -/
def readPart (f : Frame) (ps : List Pins) : List Byte :=
  ((ps.drop (1 + f.out.length)).take f.reads).map Pins.miso

/-- The events of a successful operation (R96). -/
def doneEvents (f : Frame) (out : List Byte) : List Event :=
  [.busyLow .pre, .txn ⟨f.out, f.reads, out, .done, f.header.length⟩, .busyLow .post]

/-- The events of an operation that failed with `e` after `k` frame bytes (R96). -/
def failedEvents (f : Frame) (out : List Byte) (e : BusErr) (k : Nat) : List Event :=
  [.busyLow .pre, .txn ⟨f.out.take k, f.reads, out.take (k - f.out.length), .failed e k, f.header.length⟩]

/-- A state whose engine has taken a request with these latches: `rbuf` and `RSP` emptied, waiting for busy
low (R87). -/
def taken (l : Latches) (s : State) : State :=
  { s with latches := l, rbuf := [], rsp := none, phase := .preWait }

/-- The state when a framed operation of frame `f` has ended with the bytes `out`, `fill` having gone out
while they were read, and `rest` being what is left of the schedule: `Ok(out)`, IDLE, chip-select released,
one more transaction in the history. Everything not named is as it was. -/
def ended (f : Frame) (out fill : List Byte) (rest : List Pins) (s : State) : State :=
  { s with
    phase := .idle, idx := f.out.length + f.reads, cs := .released, rbuf := out, rsp := some (.ok out)
    mosi := [], miso := [], driven := f.out ++ fill, history := s.history ++ doneEvents f out
    env := rest, tick := s.tick + frameTime f }

/-- From a state that has taken a request, a cooperative environment carries the operation of frame `f` to
its end: it answers the bytes the oracle presented (R80, R96). -/
def CarriedOut (f : Frame) (s : State) : Prop :=
  ∀ ps rest, s.port = none → s.env = ps ++ rest → ps.length = frameTime f → (∀ p ∈ ps, Cooperative p) →
    ∃ fill, fill.length = f.reads ∧ (readPart f ps).length = f.reads ∧
      run (frameTime f) s = .next (ended f (readPart f ps) fill rest s)

/-- A state in which a host sequence has just requested its first operation `d`, with `todo` left. -/
def called (d : FramedOp) (todo : List SeqStep) (s : State) : State :=
  { taken (Latches.hold d) s with
    seq := some { todo := todo, flight := some .ignore, got := Gathered.empty }, seqResult := none }

/-- Steps of the machine from the call of a sequence of these frames to its return, when nothing holds it. -/
def framesTime (fs : List Frame) : Nat := (fs.map fun f => frameTime f + 2).sum

/-- The state when a called sequence has returned: the frames' events `h` added to the history, the engine as
after its last operation, of frame `f`, latches `l`, bytes `out` and outgoing `fill`, its response taken. Everything
not named is as it was. -/
def returned (l : Latches) (f : Frame) (out fill : List Byte) (h : List Event) (got : Gathered) (rest : List Pins) (n : Nat)
    (s : State) : State :=
  { s with
    phase := .idle, idx := f.out.length + f.reads, cs := .released, latches := l, rbuf := out, rsp := none
    mosi := [], miso := [], driven := f.out ++ fill, history := s.history ++ h
    seq := none, seqResult := some (.success got), env := rest, tick := s.tick + n }

/-- From a state in which a sequence of operations that read nothing has requested the first, a cooperative
environment carries the whole sequence to its return: success, the frames `fs` on the bus in order and
nothing else, the engine as after the last of them, its response taken, everything else as it was. -/
def SequenceReturns (fs : List Frame) (s : State) : Prop :=
  ∀ ps rest, s.port = none → s.env = ps ++ rest → ps.length = framesTime fs → (∀ p ∈ ps, Cooperative p) →
    ∃ l f, l.frame = some f ∧ fs.getLast? = some f ∧
      run (framesTime fs) s =
        .next (returned l f [] [] (fs.flatMap fun f => doneEvents f []) Gathered.empty rest (framesTime fs) s)

/-! ## The observation of a transaction (R23, D5) -/

/-- The segments a record holds: the written part split at `cut`, then the read part (R56). -/
def Txn.segments (t : Txn) : List Segment :=
  [.write (t.mosi.take t.cut), .write (t.mosi.drop t.cut), .read t.nread]

/-- Adjacent writes merged, empty segments dropped (R23, D5). -/
def mergeSegments : List Segment → List Segment
  | [] => []
  | .write bs :: rest =>
    match mergeSegments rest with
    | .write cs :: more => .write (bs ++ cs) :: more
    | more => if bs = [] then more else .write bs :: more
  | .read n :: rest => if n = 0 then mergeSegments rest else .read n :: mergeSegments rest

/-! ## The shape of a history (R96) -/

/-- Where a history stands: between operations, after a pre-wait, after a completed transaction. -/
inductive Standing where
  | between | selected | released
deriving DecidableEq, Repr

/-- Busy low, one transaction, and after a completed one busy low again; nothing after a failed one (R96). -/
def Standing.after : Standing → Event → Option Standing
  | .between, .busyLow .pre => some .selected
  | .selected, .txn t => match t.outcome with
    | .done => some .released
    | .failed _ _ => some .between
  | .released, .busyLow .post => some .between
  | _, _ => none

/-- Where a history stands, if it is a history of R96 at all. -/
def standing (h : List Event) : Option Standing :=
  h.foldl (fun o e => o.bind fun w => w.after e) (some .between)

/-- Where the history stands in each phase. -/
def Phase.standing : Phase → Standing
  | .idle => .between
  | .preWait => .between
  | .xfer => .selected
  | .postWait => .released

/-- A record's counts agree: a completed read part is whole, a failure's count is that of the bytes moved
(R23, R96). -/
def Event.sound : Event → Prop
  | .busyLow _ => True
  | .txn t => match t.outcome with
    | .done => t.miso.length = t.nread
    | .failed _ k => t.mosi.length + t.miso.length = k ∧ t.miso.length ≤ t.nread

/-! ## The invariant -/

/-- What every step keeps. -/
structure EngineInv (s : State) : Prop where
  /-- Chip-select is asserted exactly in XFER (R13). -/
  chipSelect : s.cs = .asserted ↔ s.phase = .xfer
  /-- The response is empty while an operation is in flight (R11). -/
  response : s.phase ≠ .idle → s.rsp = none
  /-- The latches an operation in flight reads hold values (R15, R87). -/
  latched : s.phase ≠ .idle → ∃ f, s.latches.frame = some f
  /-- Nothing has been read before chip-select (R14, R87). -/
  unread : s.phase = .preWait → s.rbuf = []
  /-- In XFER the position lies in the frame, and the records hold what has been transferred (R12, R14,
  R89, R90). -/
  position : ∀ f, s.phase = .xfer → s.latches.frame = some f →
    s.idx ≤ f.out.length + f.reads ∧ s.mosi = f.out.take s.idx ∧ s.miso = s.rbuf ∧
      s.rbuf.length = s.idx - f.out.length
  /-- At the end the read buffer holds the bytes asked for (R11, R14). -/
  readWhole : ∀ f, s.phase = .postWait → s.latches.frame = some f → s.rbuf.length = f.reads
  /-- The history is one of R96. -/
  trace : standing s.history = some s.phase.standing
  /-- Every record's counts agree. -/
  records : ∀ e ∈ s.history, e.sound

end Sys2Proof.Machine
end

