-- ==== Sys2Proof/Certificates/Slice0/Obligations.lean ====
section
/-! DEFINITION. The statements for the provers. Where a statement speaks of `Config.catalog` it holds for
whatever that constant is; where it speaks of `s.pins` it holds for scheduled samples and free draws alike. -/

open Sys2Proof Sys2Proof.Machine

/-! ## Reset and the invariant -/

/-- R195, R25: reset leaves no operation in flight, chip-select released, no response, an empty read buffer,
latches without value and an empty history. -/
def Obligations.ResetLeavesBlockIdle : Prop :=
  State.reset.phase = .idle ∧ State.reset.cs = .released ∧ State.reset.rsp = none ∧ State.reset.rbuf = [] ∧
  State.reset.latches = ⟨none, none, none, none, none, none⟩ ∧ State.reset.history = []

/-- The reset state meets the invariant of Safety.lean. -/
def Obligations.ResetMeetsInvariant : Prop := EngineInv State.reset

/-- Every step keeps the invariant, from every state that meets it: R10 to R14 and the history of R96. -/
def Obligations.StepKeepsInvariant : Prop := ∀ s t, EngineInv s → step s = .next t → EngineInv t

/-- From a state that meets the invariant no step faults: the two faults are stops of the model in states no
run reaches. -/
def Obligations.InvariantExcludesFaults : Prop := ∀ s, EngineInv s → ∀ e, step s ≠ .fault e

/-- R13: chip-select is asserted exactly while the phase is XFER, at reset and after every step. -/
def Obligations.ChipSelectExactlyInTransfer : Prop :=
  (State.reset.cs = .asserted ↔ State.reset.phase = .xfer) ∧
  ∀ s t, (s.cs = .asserted ↔ s.phase = .xfer) → step s = .next t → (t.cs = .asserted ↔ t.phase = .xfer)

/-! ## Requests, frames and the observation -/

/-- Every well-formed instruction is read back from its request, operands included. For the five framed operations the
request is the frame of R51 to R55; for `FLUSH`, the codecs and the sequences it is the model's own request form (log
entry 1), with the model's places of the enumeration members (log entry 8). -/
def Obligations.DecodeOfEncode : Prop := ∀ i, WellFormed i → decode (encode i) = .ok i

/-- The decoder yields well-formed instructions only: of the model's own request form (log entry 1), and well formed in
that every enumeration member has its one name (log entry 8). The spec has no ill-formed operand (R66). -/
def Obligations.DecodedIsWellFormed : Prop := ∀ r i, decode r = .ok i → WellFormed i

/-- Sample frames of 30_encoding.md and 95_test_vectors.md, read by the first-byte map (R65) that the
model's port uses (log entry 1). -/
def Obligations.DecodeReadsSpecFrames : Prop :=
  decode ⟨.frame, [0x18, 0x01, 0x53, 0xA9, 0xB7], 0⟩ = .ok (.regw 0x0153 [0xA9, 0xB7]) ∧
  decode ⟨.frame, [0x19, 0x01, 0x53, 0x00], 2⟩ = .ok (.regr 0x0153 2) ∧
  decode ⟨.frame, [0x1A, 0x00, 0x48, 0x69], 0⟩ = .ok (.bufw 0x00 [0x48, 0x69]) ∧
  decode ⟨.frame, [0x1B, 0x10], 3⟩ = .ok (.bufr 0x10 3) ∧
  decode ⟨.frame, [0x86, 0xB9, 0x00, 0x00], 0⟩ = .ok (.cmd 0x86 [0xB9, 0x00, 0x00] 0)

/-- R50 to R55, R57: the latches of an accepted operation give its frame, and the request's bytes and read
count are that frame. That the request is the frame is the model's (log entry 1). -/
def Obligations.LatchedFrameIsEncodedFrame : Prop :=
  ∀ d, ∃ f, (Latches.hold d).frame = some f ∧ f.out = (encode d.instr).bytes ∧ f.reads = (encode d.instr).rlen

/-- R66: a command with opcode 0x18, 0x19, 0x1A or 0x1B is accepted like any other, and its frame cannot be told from
the register or buffer frame whose address bytes are its first input bytes. -/
def Obligations.CommandMayLookLikeRegisterWrite : Prop :=
  ∀ (hi lo off : Byte) (data : List Byte) (rlen : Nat) (s : State), s.phase = .idle →
    ∀ c d, (c, d) ∈ ([(.cmd 0x18 (hi :: lo :: data) 0, .regw (hi ++ lo) data),
        (.cmd 0x19 [hi, lo, 0x00] rlen, .regr (hi ++ lo) rlen),
        (.cmd 0x1A (off :: data) 0, .bufw off data),
        (.cmd 0x1B [off] rlen, .bufr off rlen)] : List (FramedOp × FramedOp)) →
    exec c.instr s = .next (taken (Latches.hold c) s) ∧
    ∃ f g, (Latches.hold c).frame = some f ∧ (Latches.hold d).frame = some g ∧ f.out = g.out ∧ f.reads = g.reads

/-- R23, R56: two records that differ only in where the written part is split into writes are the same observation,
the written bytes and the read part; and the record the machine closes at the release holds the segments R56 records
for its frame. -/
def Obligations.ObservationIgnoresSplit : Prop :=
  (∀ t : Txn, mergeSegments t.segments =
    (if t.mosi = [] then [] else [.write t.mosi]) ++ (if t.nread = 0 then [] else [.read t.nread])) ∧
  ∀ s f, EngineInv s → s.phase = .xfer → s.port = none → s.latches.frame = some f → s.pins.bus = none →
    s.idx = f.out.length + f.reads →
    ∃ t r, step s = .next t ∧ t.history = s.history ++ [.txn r] ∧ r.segments = f.segments

/-! ## The step -/

/-- When the request at the port decodes to an instruction, the step is `exec` of it with the port emptied, and
then one sample of the environment passes. A codec operation may be called in the middle of a host sequence;
the others are the sequence's own caller's alone. The idle host whose next item is a request puts it at the port
(R163), the item being done with, once no response is left to take; and a response that stands in `RSP` it takes, after
which the block does not remember it (R11, R27). That an `Ok` is not kept either is the model's reading (log entry
25), the port and the program are the model's (log entries 1 and 2). -/
def Obligations.StepRunsDecodedRequest : Prop :=
  (∀ (r : Request) (i : Instr) (s : State), s.port = some r → decode r = .ok i → (s.seq = none ∨ isCodec i = true) →
    step s =
      match exec i { s with port := none } with
      | .next t => .next { t with env := t.env.tail, tick := t.tick + 1 }
      | .fault e => .fault e
      | .refused e => .refused e) ∧
  (∀ (r : Request) (items : List HostItem) (s : State),
    s.phase = .idle → s.port = none → s.seq = none → s.rsp = none → s.program = .request r :: items →
    step s = .next { s with port := some r, program := items, env := s.env.tail, tick := s.tick + 1 }) ∧
  ∀ (r : Response) (s : State), s.phase = .idle → s.port = none → s.seq = none → s.rsp = some r →
    step s = .next { s with rsp := none, callResult := some r, env := s.env.tail, tick := s.tick + 1 }

/-- R87: a request presented while the engine is not IDLE has no step: the host is refused, for every operation
that needs the engine. -/
def Obligations.RequestInFlightRefused : Prop :=
  ∀ i s, isCodec i = false → s.phase ≠ .idle → exec i s = .refused .requestInFlight

/-- U8, R201: a second caller's request during a host sequence is refused. -/
def Obligations.SecondCallerRefused : Prop :=
  ∀ r i s q, s.port = some r → decode r = .ok i → isCodec i = false → s.seq = some q → step s = .refused .sequenceInProgress

/-- R27, R163, R174: every codec operation answers a value at once, in every state, and changes nothing else. -/
def Obligations.CodecsAnswerAtOnce : Prop :=
  ∀ i s, isCodec i = true → ∃ v, exec i s = .next { s with codec := some v }

/-- R10, R44: while an operation is in flight, what the engine does does not depend on the host's program, its
sequence or its records, and leaves them as they are. -/
def Obligations.EngineIgnoresHost : Prop :=
  ∀ (s t : State) (prog : List HostItem) (sq : Option SeqRun) (res : Option SeqResult)
    (call : Option Response) (cv : Option CodecValue),
    s.phase ≠ .idle → s.port = none → step s = .next t →
    step { s with program := prog, seq := sq, seqResult := res, callResult := call, codec := cv } =
      .next { t with program := prog, seq := sq, seqResult := res, callResult := call, codec := cv }

/-! ## The engine's rules -/

/-- R88: pre-wait. -/
def Obligations.PreWaitObservesLowAndSelects : Prop :=
  ∀ s, s.phase = .preWait → s.port = none →
    (s.pins.busy = .low →
      step s = .next { s with
        history := s.history ++ [.busyLow .pre], cs := .asserted, idx := 0, phase := .xfer, mosi := [], miso := []
        driven := [], env := s.env.tail, tick := s.tick + 1 }) ∧
    (s.pins.busy = .high → step s = .next { s with env := s.env.tail, tick := s.tick + 1 })

/-- R89: a byte of the written part. -/
def Obligations.TransferWritesFrameByte : Prop :=
  ∀ s f b, s.phase = .xfer → s.port = none → s.latches.frame = some f → s.pins.bus = none → f.out[s.idx]? = some b →
    step s = .next { s with
      mosi := s.mosi ++ [b], driven := s.driven ++ [b], idx := s.idx + 1, env := s.env.tail, tick := s.tick + 1 }

/-- R90: a byte of the read part; the byte sent meanwhile is free. -/
def Obligations.TransferReadsOracleByte : Prop :=
  ∀ s f, s.phase = .xfer → s.port = none → s.latches.frame = some f → s.pins.bus = none →
    f.out.length ≤ s.idx → s.idx < f.out.length + f.reads →
    ∃ fill, step s = .next { s with
      rbuf := s.rbuf ++ [s.pins.miso], miso := s.miso ++ [s.pins.miso], driven := s.driven ++ [fill]
      idx := s.idx + 1, env := s.env.tail, tick := s.tick + 1 }

/-- R91, R172: a bus failure, possible at every position, the first and the last included. The latches lose their
values as at reset (R176; the model's reading, log entry 12); that the position goes to 0 and the open records are
emptied rests on reset values the spec does not give (log entries 5 and 12). -/
def Obligations.BusFailureRaisesBusError : Prop :=
  ∀ s f e, s.phase = .xfer → s.port = none → s.latches.frame = some f → s.idx ≤ f.out.length + f.reads →
    s.pins.bus = some e →
    step s = .next { s with
      history := s.history ++ [.txn ⟨s.mosi, f.reads, s.miso, .failed e s.idx, f.header.length⟩], cs := .released
      rbuf := [], rsp := some (.err e), phase := .idle, idx := 0, latches := ⟨none, none, none, none, none, none⟩
      mosi := [], miso := [], env := s.env.tail, tick := s.tick + 1 }

/-- R92: release. -/
def Obligations.ReleaseClosesTransaction : Prop :=
  ∀ s f, s.phase = .xfer → s.port = none → s.latches.frame = some f → s.pins.bus = none →
    s.idx = f.out.length + f.reads →
    step s = .next { s with
      history := s.history ++ [.txn ⟨s.mosi, f.reads, s.miso, .done, f.header.length⟩], cs := .released
      phase := .postWait, mosi := [], miso := [], env := s.env.tail, tick := s.tick + 1 }

/-- R93: post-wait. -/
def Obligations.PostWaitAnswers : Prop :=
  ∀ s, s.phase = .postWait → s.port = none →
    (s.pins.busy = .low →
      step s = .next { s with
        history := s.history ++ [.busyLow .post], rsp := some (.ok s.rbuf), phase := .idle, env := s.env.tail
        tick := s.tick + 1 }) ∧
    (s.pins.busy = .high → step s = .next { s with env := s.env.tail, tick := s.tick + 1 })

/-- R94: the wait steps go or hold, and have no other outcome: no error, the response being as it was after a pre-wait
and `Ok(rbuf)` after a post-wait. -/
def Obligations.WaitStepsGoOrHold : Prop :=
  ∀ s, s.phase = .preWait ∨ s.phase = .postWait → s.port = none →
    ∃ t, step s = .next t ∧
      ((s.pins.busy = .high ∧ t = { s with env := s.env.tail, tick := s.tick + 1 }) ∨
       (s.pins.busy = .low ∧ s.phase = .preWait ∧ t.phase = .xfer ∧ t.rsp = s.rsp) ∨
       (s.pins.busy = .low ∧ s.phase = .postWait ∧ t.phase = .idle ∧ t.rsp = some (.ok s.rbuf)))

/-- R95, R205: while busy stays high the engine holds, for ever if need be: nothing but the passing of samples
happens, in either wait. -/
def Obligations.BusyHighHoldsForEver : Prop :=
  ∀ (s : State) (ps rest : List Pins), s.phase = .preWait ∨ s.phase = .postWait → s.port = none → s.env = ps ++ rest →
    (∀ p ∈ ps, p.busy = .high) →
    run ps.length s = .next { s with env := rest, tick := s.tick + ps.length }

/-- R170, R172, R174: a new bus error in the response comes from a bus failure in XFER and from nothing else, and
leaves the engine IDLE with chip-select released. -/
def Obligations.BusErrorOnlyFromTransfer : Prop :=
  ∀ s t e, step s = .next t → t.rsp = some (.err e) → s.rsp ≠ some (.err e) →
    s.phase = .xfer ∧ s.port = none ∧ s.pins.bus = some e ∧ t.phase = .idle ∧ t.cs = .released

/-! ## Whole operations -/

/-- R81: `CMD` is accepted whatever its opcode, and carried out with the frame `[opc] ++ wdata` and `M` bytes
read. -/
def Obligations.CmdCompletes : Prop :=
  ∀ opc wdata rlen s, s.phase = .idle →
    exec (.cmd opc wdata rlen) s = .next (taken ⟨some .cmd, some opc, none, none, some wdata, some rlen⟩ s) ∧
    CarriedOut ⟨[opc], wdata, rlen⟩ (taken ⟨some .cmd, some opc, none, none, some wdata, some rlen⟩ s)

/-- R82: `REGW` is accepted and carried out with the frame `[0x18, addr_hi, addr_lo] ++ wdata`, nothing read. -/
def Obligations.RegwCompletes : Prop :=
  ∀ (hi lo : Byte) wdata s, s.phase = .idle →
    exec (.regw (hi ++ lo) wdata) s = .next (taken ⟨some .regw, none, some (hi ++ lo), none, some wdata, none⟩ s) ∧
    CarriedOut ⟨[0x18, hi, lo], wdata, 0⟩ (taken ⟨some .regw, none, some (hi ++ lo), none, some wdata, none⟩ s)

/-- R83: `REGR` is accepted and carried out with the frame `[0x19, addr_hi, addr_lo, 0x00]` and `M` bytes read. -/
def Obligations.RegrCompletes : Prop :=
  ∀ (hi lo : Byte) rlen s, s.phase = .idle →
    exec (.regr (hi ++ lo) rlen) s = .next (taken ⟨some .regr, none, some (hi ++ lo), none, none, some rlen⟩ s) ∧
    CarriedOut ⟨[0x19, hi, lo, 0x00], [], rlen⟩ (taken ⟨some .regr, none, some (hi ++ lo), none, none, some rlen⟩ s)

/-- R84: `BUFW` is accepted and carried out with the frame `[0x1A, off] ++ wdata`, nothing read. -/
def Obligations.BufwCompletes : Prop :=
  ∀ off wdata s, s.phase = .idle →
    exec (.bufw off wdata) s = .next (taken ⟨some .bufw, none, none, some off, some wdata, none⟩ s) ∧
    CarriedOut ⟨[0x1A, off], wdata, 0⟩ (taken ⟨some .bufw, none, none, some off, some wdata, none⟩ s)

/-- R85: `BUFR` is accepted and carried out with the frame `[0x1B, off]` and `M` bytes read, no filler. -/
def Obligations.BufrCompletes : Prop :=
  ∀ off rlen s, s.phase = .idle →
    exec (.bufr off rlen) s = .next (taken ⟨some .bufr, none, none, some off, none, some rlen⟩ s) ∧
    CarriedOut ⟨[0x1B, off], [], rlen⟩ (taken ⟨some .bufr, none, none, some off, none, some rlen⟩ s)

/-- R86: `FLUSH` answers `Ok([])` at once and changes nothing else. -/
def Obligations.FlushAnswersAtOnce : Prop :=
  ∀ s, s.phase = .idle → exec .flush s = .next { s with rsp := some (.ok []) }

/-- R96, R172: an operation whose bus fails after `k` frame bytes, `k` from 0 to the frame's end, leaves the record
of the bytes moved before the failure and nothing after it, and the response `Err(e)`. The latches without value, the
position 0 and the emptied open records after it are the model's (log entries 5 and 12). -/
def Obligations.FailedOperationLeavesPartialRecord : Prop :=
  ∀ (d : FramedOp) (s : State) (ps rest : List Pins) (p : Pins) (e : BusErr) (k : Nat),
    k ≤ (frameOf d).out.length + (frameOf d).reads → s.port = none → s.env = ps ++ p :: rest → ps.length = k + 1 →
    (∀ q ∈ ps, Cooperative q) → p.bus = some e →
    ∃ driven, run (k + 2) (taken (Latches.hold d) s) =
      .next { s with
        phase := .idle, idx := 0, cs := .released, latches := ⟨none, none, none, none, none, none⟩, rbuf := []
        rsp := some (.err e), mosi := [], miso := [], driven := driven
        history := s.history ++ failedEvents (frameOf d) (readPart (frameOf d) ps) e k
        env := rest, tick := s.tick + (k + 2) }

/-! ## Frequency codec -/

/-- R110, R113: `FREQ.HZ` holds the low 24 bits of the exact floor, most significant byte first. -/
def Obligations.FreqHzEncodesSteps : Prop :=
  ∀ (hz : BitVec 32) (s : State), ∃ b0 b1 b2 : Byte,
    exec (.freqHz hz) s = .next { s with codec := some (.freq ⟨b0, b1, b2⟩) } ∧
    b0.toNat * 65536 + b1.toNat * 256 + b2.toNat = (hz.toNat * 2 ^ 18 / 52000000) % 2 ^ 24

/-- R111, R112: `FREQ.RAW` takes the bytes as given, `FREQ.BYTES` gives them back. -/
def Obligations.FreqRawAndBytesAreIdentity : Prop :=
  ∀ (b0 b1 b2 : Byte) (s : State),
    exec (.freqRaw b0 b1 b2) s = .next { s with codec := some (.freq ⟨b0, b1, b2⟩) } ∧
    exec (.freqBytes ⟨b0, b1, b2⟩) s = .next { s with codec := some (.bytes [b0, b1, b2]) }

/-- R114, R117: the equivalent form; monotone on the truncation-free range; 52 MHz adds 0x04 to byte 0 and leaves
the others; the period is 3 328 000 000 Hz. -/
def Obligations.FreqArithmeticLaws : Prop :=
  (∀ hz, freqSteps hz = hz * 1024 / 203125) ∧
  (∀ hz1 hz2, hz1 ≤ hz2 → hz2 < 3328000000 → freqSteps hz1 ≤ freqSteps hz2 ∧ freqSteps hz2 < 2 ^ 24) ∧
  (∀ hz, freqSteps (hz + 52000000) = freqSteps hz + 262144 ∧
    freqOfSteps (freqSteps (hz + 52000000)) =
      { freqOfSteps (freqSteps hz) with b0 := (freqOfSteps (freqSteps hz)).b0 + 0x04 }) ∧
  (∀ hz : BitVec 32, hz.toNat + 3328000000 < 2 ^ 32 → freqOfHz (hz + 3328000000#32) = freqOfHz hz)

/-! ## Packers -/

/-- R122, R121: `MOD.PACK` gives the three codes, independent of one another, with the pinned entries. -/
def Obligations.ModPackGivesCodes : Prop :=
  (∀ sf bw cr s, exec (.modPack sf bw cr) s =
    .next { s with codec := some (.bytes [sfCode Config.catalog sf, bwCode Config.catalog bw, crCode Config.catalog cr]) }) ∧
  ∀ c : Catalog, sfCode c .sf12 = 0xC0 ∧ bwCode c .khz200 = 0x34 ∧ crCode c .cr45 = 0x01

/-- R123: `MOD.FIELD` is the 32-bit number whose big-endian bytes are a zero byte and then `MOD.PACK`. -/
def Obligations.ModFieldIsPaddedPack : Prop :=
  ∀ sf bw cr s, ∃ v : BitVec 32, exec (.modField sf bw cr) s = .next { s with codec := some (.word32 v) } ∧
    be32 v = [0x00, sfCode Config.catalog sf, bwCode Config.catalog bw, crCode Config.catalog cr] ∧ v.toNat < 2 ^ 24

/-- R124: `MOD.FEC` is a function of the spreading factor alone: SF5 and SF6, SF7 and SF8, SF9 to SF12. -/
def Obligations.ModFecBySpreadingFactor : Prop :=
  ∀ sf s, exec (.modFec sf) s = .next { s with codec := some (.byte (
    if sf = .sf5 ∨ sf = .sf6 then Config.catalog.fecA
    else if sf = .sf7 ∨ sf = .sf8 then Config.catalog.fecB
    else Config.catalog.fecC)) }

/-- R130: `PKT.PRE` is the exponent's low nibble over the mantissa's low nibble, for all 8-bit operands. -/
def Obligations.PktPrePacksNibbles : Prop :=
  ∀ (mant exp : Byte) (s : State), ∃ v : Byte, exec (.pktPre mant exp) s = .next { s with codec := some (.byte v) } ∧
    v.toNat = (exp.toNat % 16) * 16 + mant.toNat % 16

/-- R132, R131: `PKT.PACK`, with the pinned entries. -/
def Obligations.PktPackLaysOutSevenBytes : Prop :=
  (∀ mant exp hdr len crc iq s, exec (.pktPack mant exp hdr len crc iq) s =
    .next { s with codec := some (.bytes [(mant &&& 0x0F#8) ||| (exp <<< (4 : Nat)), hdrCode Config.catalog hdr, len,
      crcCode Config.catalog crc, iqCode Config.catalog iq, 0x00, 0x00]) }) ∧
  ∀ c : Catalog, hdrCode c .explicit = 0x00 ∧ crcCode c .enabled = 0x20 ∧ iqCode c .normal = 0x40

/-- R133: `PKT.FIELD` is the 64-bit number whose big-endian bytes are a zero byte and then `PKT.PACK`. -/
def Obligations.PktFieldIsPaddedPack : Prop :=
  ∀ mant exp hdr len crc iq s, ∃ v : BitVec 64,
    exec (.pktField mant exp hdr len crc iq) s = .next { s with codec := some (.word64 v) } ∧
    be64 v = [0x00, (mant &&& 0x0F#8) ||| (exp <<< (4 : Nat)), hdrCode Config.catalog hdr, len,
      crcCode Config.catalog crc, iqCode Config.catalog iq, 0x00, 0x00] ∧
    v.toNat < 2 ^ 56 ∧ v.toNat % 2 ^ 16 = 0

/-- R138: `TXP.MAKE` answers the power as given and the ramp code, not packed. -/
def Obligations.TxpMakeIsOpaquePair : Prop :=
  ∀ power ramp s, exec (.txpMake power ramp) s = .next { s with codec := some (.txp power (Config.catalog.rampCode ramp)) }

/-- R140: `IRQ.OR` sets the bit of every flag of the set and no other; order and repetition do not matter. -/
def Obligations.IrqOrSetsExactlyTheFlags : Prop :=
  ∀ flags s, ∃ v : Half, exec (.irqOr flags) s = .next { s with codec := some (.word16 v) } ∧
    ∀ n : Fin 16, v.getLsbD n.val = true ↔ ∃ f ∈ flags, Config.catalog.irqBit f = n

/-- R141: `STAT.MODE` answers a member of the enumeration whose code the sub-field holds, and `unknown(code)` exactly
when no member has that code. -/
def Obligations.StatModeLooksUpSubfield : Prop :=
  ∀ (status : Byte) (s : State), ∃ (m : ModeResult) (code : Byte),
    exec (.statMode status) s = .next { s with codec := some (.mode m) } ∧
    code.toNat = status.toNat / 2 ^ Config.catalog.modeLo.val %
      2 ^ (Config.catalog.modeHi.val + 1 - Config.catalog.modeLo.val) ∧
    ((∃ k ∈ modeMembers Config.catalog, m = .known k ∧ Config.catalog.modeCode k = code) ∨
     (m = .unknown code ∧ ∀ k ∈ modeMembers Config.catalog, Config.catalog.modeCode k ≠ code))

/-- R142: `CAL.ALL` sets the enable bit of every sub-block, six bits in all. That the two other bits are zero is derived
in R142, which gives six bits only where `CAL_BIT` is injective; the model builds that in (log entry 10). -/
def Obligations.CalAllSetsExactlySixBits : Prop :=
  ∀ s, ∃ v : Byte, exec .calAll s = .next { s with codec := some (.byte v) } ∧
    (∀ b : CalBlock, v.getLsbD (calBit Config.catalog b).val = true) ∧
    (List.range 8).countP (fun n => v.getLsbD n) = 6

/-- R134: two PacketParams that differ only in the sync word pack to the same bytes, and `SETPKT` does the same with
both. -/
def Obligations.SyncWordNotEncoded : Prop :=
  ∀ (p : PacketParams) (sync : List Byte) (s : State),
    (∀ c, pktPack c { p with sync := sync } = pktPack c p ∧ pktField c { p with sync := sync } = pktField c p) ∧
    exec (.setpkt { p with sync := sync }) s = exec (.setpkt p) s

/-! ## Host sequences -/

/-- R152: `SETFREQ` is one command with the three frequency bytes. That the step is a `CMD` is the spec's
own reading, from general knowledge (log entry 17). -/
def Obligations.SetfreqRuns : Prop :=
  ∀ (f : Frequency) (s : State), s.phase = .idle → s.seq = none →
    exec (.setfreq f) s = .next (called (.cmd Config.catalog.opcSetRfFrequency [f.b0, f.b1, f.b2] 0) [] s) ∧
    SequenceReturns [⟨[Config.catalog.opcSetRfFrequency], [f.b0, f.b1, f.b2], 0⟩]
      (called (.cmd Config.catalog.opcSetRfFrequency [f.b0, f.b1, f.b2] 0) [] s)

/-- R153: `SETMOD` is the modulation command and then, for every spreading factor, the two workaround writes. -/
def Obligations.SetmodRuns : Prop :=
  ∀ sf bw cr s, s.phase = .idle → s.seq = none →
    ∃ input todo,
      input = (if Config.catalog.padOnWire then [0x00] else []) ++
        [sfCode Config.catalog sf, bwCode Config.catalog bw, crCode Config.catalog cr] ∧
      exec (.setmod sf bw cr) s = .next (called (.cmd Config.catalog.opcSetModulationParams input 0) todo s) ∧
      SequenceReturns
        [⟨[Config.catalog.opcSetModulationParams], input, 0⟩,
         ⟨0x18 :: be16 Config.catalog.fecRegAddr, [modFec Config.catalog sf], 0⟩,
         ⟨0x18 :: be16 Config.catalog.fecCorrAddr, Config.catalog.fecCorrValue, 0⟩]
        (called (.cmd Config.catalog.opcSetModulationParams input 0) todo s)

/-- R154: `SETPKT` is one command with the packet bytes, padded on the wire or not. -/
def Obligations.SetpktRuns : Prop :=
  ∀ (p : PacketParams) (s : State), s.phase = .idle → s.seq = none →
    ∃ input,
      input = (if Config.catalog.padOnWire then [0x00] else []) ++ pktPack Config.catalog p ∧
      exec (.setpkt p) s = .next (called (.cmd Config.catalog.opcSetPacketParams input 0) [] s) ∧
      SequenceReturns [⟨[Config.catalog.opcSetPacketParams], input, 0⟩]
        (called (.cmd Config.catalog.opcSetPacketParams input 0) [] s)

/-- R156: `CALIBRATE` is one command with the one byte of `CAL.ALL`. -/
def Obligations.CalibrateRuns : Prop :=
  ∀ s, s.phase = .idle → s.seq = none →
    exec .calibrate s = .next (called (.cmd Config.catalog.opcCalibrate [calAll Config.catalog] 0) [] s) ∧
    SequenceReturns [⟨[Config.catalog.opcCalibrate], [calAll Config.catalog], 0⟩]
      (called (.cmd Config.catalog.opcCalibrate [calAll Config.catalog] 0) [] s)

/-- R150: `CONFIGURE` issues its eight transactions in the one order, each whole, and returns success. The frames
depend on the operand alone, so two runs are byte-identical (R143). That its
steps other than the two writes are `CMD`s with these input bytes is the spec's reading from general knowledge (log
entry 17). -/
def Obligations.ConfigureRuns : Prop :=
  ∀ (m : ModemParams) (s : State), s.phase = .idle → s.seq = none →
    ∃ modIn pktIn todo,
      modIn = (if Config.catalog.padOnWire then [0x00] else []) ++ modPack Config.catalog m.mod ∧
      pktIn = (if Config.catalog.padOnWire then [0x00] else []) ++ pktPack Config.catalog m.pkt ∧
      exec (.configure m) s =
        .next (called (.cmd Config.catalog.opcSetStandby [Config.catalog.rcClockCode] 0) todo s) ∧
      SequenceReturns
        [⟨[Config.catalog.opcSetStandby], [Config.catalog.rcClockCode], 0⟩,
         ⟨[Config.catalog.opcSetRfFrequency], [m.freq.b0, m.freq.b1, m.freq.b2], 0⟩,
         ⟨[Config.catalog.opcSetPacketType], [Config.catalog.loraCode], 0⟩,
         ⟨[Config.catalog.opcSetModulationParams], modIn, 0⟩,
         ⟨0x18 :: be16 Config.catalog.fecRegAddr, [modFec Config.catalog m.mod.sf], 0⟩,
         ⟨0x18 :: be16 Config.catalog.fecCorrAddr, Config.catalog.fecCorrValue, 0⟩,
         ⟨[Config.catalog.opcSetPacketParams], pktIn, 0⟩,
         ⟨[Config.catalog.opcSetTxParams],
          Config.catalog.txpBytes m.tx.power (Config.catalog.rampCode m.tx.ramp), 0⟩]
        (called (.cmd Config.catalog.opcSetStandby [Config.catalog.rcClockCode] 0) todo s)

/-- R157, R161, R162: `SEND` issues its transactions in strict order, waits while the interrupt line is low, however
long, goes on when it is high, clears exactly the two bytes of IRQ status it read, and returns success whatever they
are. The status bytes are kept decoded, for the log. The `CMD` forms and input bytes of all steps but the buffer write
are the spec's reading from general knowledge (log entry 17). -/
def Obligations.SendRuns : Prop :=
  ∀ (payload : List Byte) (s : State), s.phase = .idle → s.seq = none →
    ∃ todo masks,
      masks = Config.catalog.maskBytes (irqOr Config.catalog [.txDone, .rxTxTimeout, .crcError])
        (if Config.catalog.primaryDio = 0 then irqOr Config.catalog [.txDone, .rxTxTimeout, .crcError] else 0)
        (if Config.catalog.primaryDio = 1 then irqOr Config.catalog [.txDone, .rxTxTimeout, .crcError] else 0)
        (if Config.catalog.primaryDio = 2 then irqOr Config.catalog [.txDone, .rxTxTimeout, .crcError] else 0) ∧
      exec (.send payload) s =
        .next (called (.cmd Config.catalog.opcSetBufferBaseAddress [0x00, 0x00] 0) todo s) ∧
      ∀ (before low after rest : List Pins) (high : Pins), s.port = none →
        s.env = before ++ low ++ high :: after ++ rest →
        before.length + 1 = seqTime ((sendSteps Config.catalog payload).take 6) →
        after.length = seqTime ((sendSteps Config.catalog payload).drop 7) + 1 →
        (∀ p ∈ before, Cooperative p) → (∀ p ∈ low, p.irq = .low) → high.irq = .high → (∀ p ∈ after, Cooperative p) →
        ∃ (st1 st2 : List Byte) (hi lo : Byte),
          st1.length = Config.catalog.statusLen ∧ st2.length = Config.catalog.statusLen ∧
          run (before.length + low.length + 1 + after.length)
            (called (.cmd Config.catalog.opcSetBufferBaseAddress [0x00, 0x00] 0) todo s) =
          .next (returned (Latches.hold (.cmd Config.catalog.opcClrIrqStatus [hi, lo] 0))
            ⟨[Config.catalog.opcClrIrqStatus], [hi, lo], 0⟩ [] []
            (doneEvents ⟨[Config.catalog.opcSetBufferBaseAddress], [0x00, 0x00], 0⟩ [] ++
             doneEvents ⟨[0x1A, 0x00], payload, 0⟩ [] ++
             doneEvents ⟨[Config.catalog.opcGetStatus], [], Config.catalog.statusLen⟩ st1 ++
             doneEvents ⟨[Config.catalog.opcSetDioIrqParams], masks, 0⟩ [] ++
             doneEvents ⟨[Config.catalog.opcSetTx], Config.catalog.txSingleShot, 0⟩ [] ++
             doneEvents ⟨[Config.catalog.opcGetStatus], [], Config.catalog.statusLen⟩ st2 ++
             doneEvents ⟨[Config.catalog.opcGetIrqStatus], [], 2⟩ [hi, lo] ++
             doneEvents ⟨[Config.catalog.opcClrIrqStatus], [hi, lo], 0⟩ [])
            { irq := [hi, lo], pkt := [], rxBuf := [], payload := []
              diag := [st1.map (statMode Config.catalog), st2.map (statMode Config.catalog)] }
            rest (before.length + low.length + 1 + after.length)
            (called (.cmd Config.catalog.opcSetBufferBaseAddress [0x00, 0x00] 0) todo s))

/-- R159, R11: when the awaited operation returned an error, the sequence returns it at once, no later step is issued and
nothing already issued is undone; the block does not remember the error once it is taken. -/
def Obligations.SequenceAbortsAtFirstError : Prop :=
  ∀ (s : State) (todo : List SeqStep) (k : Collect) (got : Gathered) (e : BusErr),
    s.phase = .idle → s.port = none → s.seq = some ⟨todo, some k, got⟩ → s.rsp = some (.err e) →
    step s = .next { s with rsp := none, seq := none, seqResult := some (.busError e), env := s.env.tail, tick := s.tick + 1 }

/-- R161, R205: while the interrupt line stays low the host holds at its wait, for ever if need be, and the engine is
IDLE. -/
def Obligations.InterruptLowHoldsForEver : Prop :=
  ∀ (s : State) (todo : List SeqStep) (got : Gathered) (ps rest : List Pins),
    s.phase = .idle → s.port = none → s.seq = some ⟨.waitIrq :: todo, none, got⟩ → s.env = ps ++ rest →
    (∀ p ∈ ps, p.irq = .low) →
    run ps.length s = .next { s with env := rest, tick := s.tick + ps.length }

/-- R157 step 9, R43: the clear is a plain command whose input bytes are exactly the bytes observed. -/
def Obligations.ClearWritesObservedBits : Prop :=
  ∀ (s : State) (todo : List SeqStep) (got : Gathered),
    s.phase = .idle → s.port = none → s.seq = some ⟨.clearIrq :: todo, none, got⟩ →
    step s = .next { taken ⟨some .cmd, some Config.catalog.opcClrIrqStatus, none, none, some got.irq, some 0⟩ s with
      seq := some ⟨todo, some .ignore, got⟩, env := s.env.tail, tick := s.tick + 1 }

/-- R158: the host, IDLE, with the receive design as the next item of its program, requests the DIO mask at once and has
the design's other steps left; and in every catalog the steps stand in the one order, with the IRQ status read between
the wait and the clear. That this read is a two-byte `CMD` and that the mask is routed to the primary line are read off
send (log entry 17); the place of the read is open (log entry 19). -/
def Obligations.ReceiveStepsInOrder : Prop :=
  (∀ (s : State) (continuous : Bool) (items : List HostItem),
    s.phase = .idle → s.port = none → s.seq = none → s.rsp = none → s.program = .receive continuous :: items →
    ∃ mask todo,
      receiveSteps Config.catalog continuous = .op (.cmd Config.catalog.opcSetDioIrqParams mask 0) .ignore :: todo ∧
      step s = .next { taken ⟨some .cmd, some Config.catalog.opcSetDioIrqParams, none, none, some mask, some 0⟩ s with
        program := items, seq := some ⟨todo, some .ignore, Gathered.empty⟩, seqResult := none
        env := s.env.tail, tick := s.tick + 1 }) ∧
  ∀ (c : Catalog) (continuous : Bool), ∃ mask,
    mask = c.maskBytes (irqOr c [.rxDone, .crcError, .rxTxTimeout])
      (if 0 = c.primaryDio then irqOr c [.rxDone, .crcError, .rxTxTimeout] else 0)
      (if 1 = c.primaryDio then irqOr c [.rxDone, .crcError, .rxTxTimeout] else 0)
      (if 2 = c.primaryDio then irqOr c [.rxDone, .crcError, .rxTxTimeout] else 0) ∧
    ∃ before after, receiveSteps c continuous =
      [.op (.cmd c.opcSetDioIrqParams mask 0) .ignore,
       .op (.cmd c.opcSetRx (if continuous then c.rxContinuous else c.rxSingle) 0) .ignore, .waitIrq] ++
      before ++ [.op (.cmd c.opcGetIrqStatus [] 2) .irq] ++ after ++ [.clearIrq] ∧
    before ++ after =
      [.op (.cmd c.opcGetPacketStatus c.pktStatusIn c.pktStatusLen) .pktStatus,
       .op (.cmd c.opcGetRxBufferStatus c.rxBufStatusIn c.rxBufStatusLen) .rxBufStatus, .fetchPayload]

/-- R158: the receive design reads the buffer at the reported offset, for the reported length, which are those of the
bytes the RX-buffer-status command returned. The host issues the operation that is next to do, keeps what the response
holds under the one name it was read for (packet status, RX buffer status, payload, IRQ status; a status read decoded
for the log, R185; nothing of a write), with `RSP` empty after it (R11; of an `Ok`, log entry 25), and returns all it
has read after the last step. -/
def Obligations.ReceiveFetchesReportedPayload : Prop :=
  (∀ (s : State) (todo : List SeqStep) (got : Gathered),
    s.phase = .idle → s.port = none → s.seq = some ⟨.fetchPayload :: todo, none, got⟩ →
    step s = .next { taken ⟨some .bufr, none, none, some (Config.catalog.rxOff got.rxBuf), none,
        some (Config.catalog.rxLen got.rxBuf)⟩ s with
      seq := some ⟨todo, some .payload, got⟩, env := s.env.tail, tick := s.tick + 1 }) ∧
  (∀ (s : State) (d : FramedOp) (k : Collect) (todo : List SeqStep) (got : Gathered),
    s.phase = .idle → s.port = none → s.seq = some ⟨.op d k :: todo, none, got⟩ →
    step s = .next { taken (Latches.hold d) s with
      seq := some ⟨todo, some k, got⟩, env := s.env.tail, tick := s.tick + 1 }) ∧
  (∀ (s : State) (bytes : List Byte) (todo : List SeqStep) (got : Gathered),
    s.phase = .idle → s.port = none → s.rsp = some (.ok bytes) →
    ∀ k after, (k, after) ∈ ([(.pktStatus, { got with pkt := bytes }), (.rxBufStatus, { got with rxBuf := bytes }),
        (.payload, { got with payload := bytes }), (.irq, { got with irq := bytes }),
        (.status, { got with diag := got.diag ++ [bytes.map (statMode Config.catalog)] }),
        (.ignore, got)] : List (Collect × Gathered)) →
      s.seq = some ⟨todo, some k, got⟩ →
      step s = .next { s with
        rsp := none, seq := some ⟨todo, none, after⟩, env := s.env.tail, tick := s.tick + 1 }) ∧
  ∀ (s : State) (got : Gathered), s.phase = .idle → s.port = none → s.seq = some ⟨[], none, got⟩ →
    step s = .next { s with
      seq := none, seqResult := some (.success got), env := s.env.tail, tick := s.tick + 1 }

/-- R198: the reset pulse drives the pin low, holds it at least 10 ms, releases it high and settles at least 10 ms; no
bus traffic meanwhile, the pin being low until the first delay has elapsed. Each delay lasts for as many samples as it
has not elapsed in, however many, and while it has not elapsed the host holds: nothing but the passing of samples
happens. -/
def Obligations.ResetPulseRuns : Prop :=
  (∀ (s : State) (items : List HostItem) (p1 p2 p3 p4 p5 : Pins) (holding settling rest : List Pins),
    s.phase = .idle → s.port = none → s.seq = none → s.rsp = none → s.program = .resetRadio :: items →
    s.env = p1 :: holding ++ p2 :: p3 :: settling ++ p4 :: p5 :: rest →
    (∀ p ∈ holding, p.elapsed = false) → p2.elapsed = true → (∀ p ∈ settling, p.elapsed = false) → p4.elapsed = true →
    ∃ (low settle : Nat) (todo : List SeqStep), 10 ≤ low ∧ 10 ≤ settle ∧
      run (holding.length + 1) s = .next { s with
        program := items, seq := some ⟨todo, none, Gathered.empty⟩, seqResult := none, resetPin := .low
        pulse := s.pulse ++ [.low], env := p2 :: p3 :: settling ++ p4 :: p5 :: rest, tick := s.tick + (holding.length + 1) } ∧
      run (holding.length + settling.length + 5) s = .next { s with
        program := items, seqResult := some (.success Gathered.empty), resetPin := .high
        pulse := s.pulse ++ [.low, .delayed low, .high, .delayed settle], env := rest
        tick := s.tick + (holding.length + settling.length + 5) }) ∧
  ∀ (s : State) (ms : Nat) (todo : List SeqStep) (got : Gathered) (ps rest : List Pins),
    s.phase = .idle → s.port = none → s.seq = some ⟨.delay ms :: todo, none, got⟩ → s.env = ps ++ rest →
    (∀ p ∈ ps, p.elapsed = false) →
    run ps.length s = .next { s with env := rest, tick := s.tick + ps.length }

/-! ## Fairness (R19, R22) -/

/-- R19, R95: under the fairness assumption on the radio every operation in flight ends, whatever the bus does: with
`Ok` of the bytes asked for or with `Err(e)`, chip-select released, the host's own state as it was. -/
def Obligations.OperationEndsUnderFairness : Prop :=
  ∀ s f, EngineInv s → s.phase ≠ .idle → s.port = none → s.latches.frame = some f → BusyFair s →
    ∃ n t, run n s = .next t ∧ t.phase = .idle ∧ t.cs = .released ∧
      ((∃ out, out.length = f.reads ∧ t.rsp = some (.ok out)) ∨ ∃ e, t.rsp = some (.err e)) ∧
      t.port = none ∧ t.program = s.program ∧ t.seq = s.seq ∧ t.seqResult = s.seqResult ∧
      t.callResult = s.callResult ∧ t.codec = s.codec ∧ t.resetPin = s.resetPin ∧ t.pulse = s.pulse

/-- R205, R22: under the fairness assumptions on the busy line and the interrupt line every host sequence that has been
called returns, whatever the bus does, with success or with a bus error. -/
def Obligations.SequenceEndsUnderFairness : Prop :=
  ∀ i s t, s.seq = none → s.port = none → exec i s = .next t → t.seq ≠ none → BusyFair t → IrqFair t →
    ∃ n u r, run n t = .next u ∧ u.phase = .idle ∧ u.seq = none ∧ u.seqResult = some r ∧ u.port = none ∧
      u.program = s.program ∧ u.callResult = s.callResult ∧ u.codec = s.codec ∧ u.resetPin = s.resetPin ∧
      u.pulse = s.pulse
end

