-- ==== Sys2Proof/Laws/Decode.lean ====
section
/-! SUPPORT. Bytes and enumeration places go there and back. -/

namespace Sys2Proof

theorem extract_append_high {m n : Nat} (x : BitVec m) (y : BitVec n) : (x ++ y).extractLsb' n m = x := by
  apply BitVec.eq_of_getLsbD_eq
  intro i h
  simp [BitVec.getLsbD_append, h]

theorem extract_append_low {m n : Nat} (x : BitVec m) (y : BitVec n) : (x ++ y).extractLsb' 0 n = y := by
  apply BitVec.eq_of_getLsbD_eq
  intro i h
  simp [BitVec.getLsbD_append, h]

/-- An address made of two bytes is sent as those two bytes (R57). -/
theorem be16_append (hi lo : Byte) : be16 (hi ++ lo) = [hi, lo] :=
  congrArg₂ _ (extract_append_high hi lo) (congrArg₂ _ (extract_append_low hi lo) rfl)

/-- Two adjacent parts of a value make the part they cover. -/
theorem append_extract_extract {w : Nat} (v : BitVec w) (lo m n : Nat) :
    v.extractLsb' (lo + n) m ++ v.extractLsb' lo n = v.extractLsb' lo (m + n) := by
  apply BitVec.eq_of_getLsbD_eq
  intro i h
  simp only [BitVec.getLsbD_append, BitVec.getLsbD_extractLsb']
  by_cases hn : i < n
  · simp [hn, h]
  · simp [hn, show i - n < m by omega, h, show lo + n + (i - n) = lo + i by omega]

/-- A 16-bit value is its two bytes. -/
theorem append_extract16 (v : Half) : v.extractLsb' 8 8 ++ v.extractLsb' 0 8 = v :=
  (append_extract_extract v 0 8 8).trans (BitVec.extractLsb'_eq_self)

/-- A 32-bit value is its four bytes. -/
theorem append_extract32 (v : BitVec 32) :
    v.extractLsb' 24 8 ++ v.extractLsb' 16 8 ++ v.extractLsb' 8 8 ++ v.extractLsb' 0 8 = v := by
  have h1 := append_extract_extract v 16 8 8
  have h2 := append_extract_extract v 8 16 8
  have h3 := append_extract_extract v 0 24 8
  have h4 : v.extractLsb' 0 32 = v := BitVec.extractLsb'_eq_self
  exact (congrArg (fun x : BitVec 24 => (x ++ v.extractLsb' 0 8 : BitVec (24 + 8)))
    ((congrArg (fun x : BitVec 16 => (x ++ v.extractLsb' 8 8 : BitVec (16 + 8))) h1).trans h2)).trans (h3.trans h4)

@[simp] theorem sfOfPlace_place (sf : SpreadingFactor) : sfOfPlace (placeOfSf sf) = .ok sf := by cases sf <;> rfl

theorem bwOfPlace_place {bw : Bandwidth} (h : bw.wellFormed = true) : bwOfPlace (placeOfBw bw) = bw := by
  cases bw with
  | khz200 => rfl
  | unlisted i =>
    have hi : i ≠ 0 := by simpa [Bandwidth.wellFormed] using h
    exact if_neg hi

theorem crOfPlace_place {cr : CodingRate} (h : cr.wellFormed = true) : crOfPlace (placeOfCr cr) = cr := by
  cases cr with
  | cr45 => rfl
  | unlisted i =>
    have hi : i ≠ 0 := by simpa [CodingRate.wellFormed] using h
    exact if_neg hi

theorem hdrOfPlace_place {hdr : HeaderType} (h : hdr.wellFormed = true) : hdrOfPlace (placeOfHdr hdr) = hdr := by
  cases hdr with
  | explicit => rfl
  | unlisted i =>
    have hi : i ≠ 0 := by simpa [HeaderType.wellFormed] using h
    exact if_neg hi

theorem crcOfPlace_place {crc : CrcMode} (h : crc.wellFormed = true) : crcOfPlace (placeOfCrc crc) = crc := by
  cases crc with
  | enabled => rfl
  | unlisted i =>
    have hi : i ≠ 0 := by simpa [CrcMode.wellFormed] using h
    exact if_neg hi

theorem iqOfPlace_place {iq : IqMode} (h : iq.wellFormed = true) : iqOfPlace (placeOfIq iq) = iq := by
  cases iq with
  | normal => rfl
  | unlisted i =>
    have hi : i ≠ 0 := by simpa [IqMode.wellFormed] using h
    exact if_neg hi

theorem flagOfPlace_place {f : IrqFlag} (h : f.wellFormed = true) : flagOfPlace (placeOfFlag f) = f := by
  cases f with
  | unlisted i =>
    have h4 : 4 ≤ i.toNat := by simpa [IrqFlag.wellFormed] using h
    simp only [flagOfPlace, placeOfFlag]
    split <;> simp_all
  | _ => rfl

theorem bwOfPlace_wellFormed (b : Byte) : (bwOfPlace b).wellFormed = true := by
  unfold bwOfPlace; split <;> simp_all [Bandwidth.wellFormed]

theorem crOfPlace_wellFormed (b : Byte) : (crOfPlace b).wellFormed = true := by
  unfold crOfPlace; split <;> simp_all [CodingRate.wellFormed]

theorem hdrOfPlace_wellFormed (b : Byte) : (hdrOfPlace b).wellFormed = true := by
  unfold hdrOfPlace; split <;> simp_all [HeaderType.wellFormed]

theorem crcOfPlace_wellFormed (b : Byte) : (crcOfPlace b).wellFormed = true := by
  unfold crcOfPlace; split <;> simp_all [CrcMode.wellFormed]

theorem iqOfPlace_wellFormed (b : Byte) : (iqOfPlace b).wellFormed = true := by
  unfold iqOfPlace; split <;> simp_all [IqMode.wellFormed]

theorem flagOfPlace_wellFormed (b : Byte) : (flagOfPlace b).wellFormed = true := by
  unfold flagOfPlace
  split <;> simp_all [IrqFlag.wellFormed]
  omega

/-- Concatenation as a number. -/
theorem toNat_cat {m n : Nat} (x : BitVec m) (y : BitVec n) : (x ++ y).toNat = x.toNat * 2 ^ n + y.toNat := by
  rw [BitVec.toNat_append, ← Nat.shiftLeft_add_eq_or_of_lt y.isLt, Nat.shiftLeft_eq]

/-- The big-endian bytes of a number given by its base-256 digits. -/
theorem be64_of_digits (v : BitVec 64) (x0 x1 x2 x3 x4 x5 x6 x7 : Byte)
    (h : v.toNat = x0.toNat * 2 ^ 56 + x1.toNat * 2 ^ 48 + x2.toNat * 2 ^ 40 + x3.toNat * 2 ^ 32 + x4.toNat * 2 ^ 24 +
      x5.toNat * 2 ^ 16 + x6.toNat * 2 ^ 8 + x7.toNat) : be64 v = [x0, x1, x2, x3, x4, x5, x6, x7] := by
  have := x0.isLt; have := x1.isLt; have := x2.isLt; have := x3.isLt
  have := x4.isLt; have := x5.isLt; have := x6.isLt; have := x7.isLt
  simp only [be64, List.cons.injEq, and_true]
  refine ⟨?_, ?_, ?_, ?_, ?_, ?_, ?_, ?_⟩ <;> apply BitVec.eq_of_toNat_eq <;>
    rw [BitVec.extractLsb'_toNat, Nat.shiftRight_eq_div_pow, h] <;> omega

end Sys2Proof
end

