-- ==== Sys2Proof/Laws/State.lean ====
section
/-! SUPPORT. Beside State: for every named update of the machine, what each field of the result is. -/

namespace Sys2Proof.Machine

/-! ### State.clearResponse -/

@[simp] theorem State.clearResponse_phase (s : State) : (s.clearResponse).phase = s.phase := rfl
@[simp] theorem State.clearResponse_idx (s : State) : (s.clearResponse).idx = s.idx := rfl
@[simp] theorem State.clearResponse_cs (s : State) : (s.clearResponse).cs = s.cs := rfl
@[simp] theorem State.clearResponse_latches (s : State) : (s.clearResponse).latches = s.latches := rfl
@[simp] theorem State.clearResponse_rbuf (s : State) : (s.clearResponse).rbuf = s.rbuf := rfl
@[simp] theorem State.clearResponse_rsp (s : State) : (s.clearResponse).rsp = none := rfl
@[simp] theorem State.clearResponse_mosi (s : State) : (s.clearResponse).mosi = s.mosi := rfl
@[simp] theorem State.clearResponse_miso (s : State) : (s.clearResponse).miso = s.miso := rfl
@[simp] theorem State.clearResponse_driven (s : State) : (s.clearResponse).driven = s.driven := rfl
@[simp] theorem State.clearResponse_history (s : State) : (s.clearResponse).history = s.history := rfl
@[simp] theorem State.clearResponse_codec (s : State) : (s.clearResponse).codec = s.codec := rfl
@[simp] theorem State.clearResponse_port (s : State) : (s.clearResponse).port = s.port := rfl
@[simp] theorem State.clearResponse_program (s : State) : (s.clearResponse).program = s.program := rfl
@[simp] theorem State.clearResponse_seq (s : State) : (s.clearResponse).seq = s.seq := rfl
@[simp] theorem State.clearResponse_seqResult (s : State) : (s.clearResponse).seqResult = s.seqResult := rfl
@[simp] theorem State.clearResponse_callResult (s : State) : (s.clearResponse).callResult = s.callResult := rfl
@[simp] theorem State.clearResponse_resetPin (s : State) : (s.clearResponse).resetPin = s.resetPin := rfl
@[simp] theorem State.clearResponse_pulse (s : State) : (s.clearResponse).pulse = s.pulse := rfl
@[simp] theorem State.clearResponse_env (s : State) : (s.clearResponse).env = s.env := rfl
@[simp] theorem State.clearResponse_tick (s : State) : (s.clearResponse).tick = s.tick := rfl

/-! ### State.respondOk -/

@[simp] theorem State.respondOk_phase (bytes : List Byte) (s : State) : (s.respondOk bytes).phase = s.phase := rfl
@[simp] theorem State.respondOk_idx (bytes : List Byte) (s : State) : (s.respondOk bytes).idx = s.idx := rfl
@[simp] theorem State.respondOk_cs (bytes : List Byte) (s : State) : (s.respondOk bytes).cs = s.cs := rfl
@[simp] theorem State.respondOk_latches (bytes : List Byte) (s : State) : (s.respondOk bytes).latches = s.latches := rfl
@[simp] theorem State.respondOk_rbuf (bytes : List Byte) (s : State) : (s.respondOk bytes).rbuf = s.rbuf := rfl
@[simp] theorem State.respondOk_rsp (bytes : List Byte) (s : State) : (s.respondOk bytes).rsp = some (.ok bytes) := rfl
@[simp] theorem State.respondOk_mosi (bytes : List Byte) (s : State) : (s.respondOk bytes).mosi = s.mosi := rfl
@[simp] theorem State.respondOk_miso (bytes : List Byte) (s : State) : (s.respondOk bytes).miso = s.miso := rfl
@[simp] theorem State.respondOk_driven (bytes : List Byte) (s : State) : (s.respondOk bytes).driven = s.driven := rfl
@[simp] theorem State.respondOk_history (bytes : List Byte) (s : State) : (s.respondOk bytes).history = s.history := rfl
@[simp] theorem State.respondOk_codec (bytes : List Byte) (s : State) : (s.respondOk bytes).codec = s.codec := rfl
@[simp] theorem State.respondOk_port (bytes : List Byte) (s : State) : (s.respondOk bytes).port = s.port := rfl
@[simp] theorem State.respondOk_program (bytes : List Byte) (s : State) : (s.respondOk bytes).program = s.program := rfl
@[simp] theorem State.respondOk_seq (bytes : List Byte) (s : State) : (s.respondOk bytes).seq = s.seq := rfl
@[simp] theorem State.respondOk_seqResult (bytes : List Byte) (s : State) : (s.respondOk bytes).seqResult = s.seqResult := rfl
@[simp] theorem State.respondOk_callResult (bytes : List Byte) (s : State) : (s.respondOk bytes).callResult = s.callResult := rfl
@[simp] theorem State.respondOk_resetPin (bytes : List Byte) (s : State) : (s.respondOk bytes).resetPin = s.resetPin := rfl
@[simp] theorem State.respondOk_pulse (bytes : List Byte) (s : State) : (s.respondOk bytes).pulse = s.pulse := rfl
@[simp] theorem State.respondOk_env (bytes : List Byte) (s : State) : (s.respondOk bytes).env = s.env := rfl
@[simp] theorem State.respondOk_tick (bytes : List Byte) (s : State) : (s.respondOk bytes).tick = s.tick := rfl

/-! ### State.respondErr -/

@[simp] theorem State.respondErr_phase (e : BusErr) (s : State) : (s.respondErr e).phase = s.phase := rfl
@[simp] theorem State.respondErr_idx (e : BusErr) (s : State) : (s.respondErr e).idx = s.idx := rfl
@[simp] theorem State.respondErr_cs (e : BusErr) (s : State) : (s.respondErr e).cs = s.cs := rfl
@[simp] theorem State.respondErr_latches (e : BusErr) (s : State) : (s.respondErr e).latches = s.latches := rfl
@[simp] theorem State.respondErr_rbuf (e : BusErr) (s : State) : (s.respondErr e).rbuf = s.rbuf := rfl
@[simp] theorem State.respondErr_rsp (e : BusErr) (s : State) : (s.respondErr e).rsp = some (.err e) := rfl
@[simp] theorem State.respondErr_mosi (e : BusErr) (s : State) : (s.respondErr e).mosi = s.mosi := rfl
@[simp] theorem State.respondErr_miso (e : BusErr) (s : State) : (s.respondErr e).miso = s.miso := rfl
@[simp] theorem State.respondErr_driven (e : BusErr) (s : State) : (s.respondErr e).driven = s.driven := rfl
@[simp] theorem State.respondErr_history (e : BusErr) (s : State) : (s.respondErr e).history = s.history := rfl
@[simp] theorem State.respondErr_codec (e : BusErr) (s : State) : (s.respondErr e).codec = s.codec := rfl
@[simp] theorem State.respondErr_port (e : BusErr) (s : State) : (s.respondErr e).port = s.port := rfl
@[simp] theorem State.respondErr_program (e : BusErr) (s : State) : (s.respondErr e).program = s.program := rfl
@[simp] theorem State.respondErr_seq (e : BusErr) (s : State) : (s.respondErr e).seq = s.seq := rfl
@[simp] theorem State.respondErr_seqResult (e : BusErr) (s : State) : (s.respondErr e).seqResult = s.seqResult := rfl
@[simp] theorem State.respondErr_callResult (e : BusErr) (s : State) : (s.respondErr e).callResult = s.callResult := rfl
@[simp] theorem State.respondErr_resetPin (e : BusErr) (s : State) : (s.respondErr e).resetPin = s.resetPin := rfl
@[simp] theorem State.respondErr_pulse (e : BusErr) (s : State) : (s.respondErr e).pulse = s.pulse := rfl
@[simp] theorem State.respondErr_env (e : BusErr) (s : State) : (s.respondErr e).env = s.env := rfl
@[simp] theorem State.respondErr_tick (e : BusErr) (s : State) : (s.respondErr e).tick = s.tick := rfl

/-! ### accept -/

@[simp] theorem accept_phase (d : FramedOp) (s : State) : (accept d s).phase = .preWait := rfl
@[simp] theorem accept_idx (d : FramedOp) (s : State) : (accept d s).idx = s.idx := rfl
@[simp] theorem accept_cs (d : FramedOp) (s : State) : (accept d s).cs = s.cs := rfl
@[simp] theorem accept_latches (d : FramedOp) (s : State) : (accept d s).latches = Latches.hold d := rfl
@[simp] theorem accept_rbuf (d : FramedOp) (s : State) : (accept d s).rbuf = [] := rfl
@[simp] theorem accept_rsp (d : FramedOp) (s : State) : (accept d s).rsp = none := rfl
@[simp] theorem accept_mosi (d : FramedOp) (s : State) : (accept d s).mosi = s.mosi := rfl
@[simp] theorem accept_miso (d : FramedOp) (s : State) : (accept d s).miso = s.miso := rfl
@[simp] theorem accept_driven (d : FramedOp) (s : State) : (accept d s).driven = s.driven := rfl
@[simp] theorem accept_history (d : FramedOp) (s : State) : (accept d s).history = s.history := rfl
@[simp] theorem accept_codec (d : FramedOp) (s : State) : (accept d s).codec = s.codec := rfl
@[simp] theorem accept_port (d : FramedOp) (s : State) : (accept d s).port = s.port := rfl
@[simp] theorem accept_program (d : FramedOp) (s : State) : (accept d s).program = s.program := rfl
@[simp] theorem accept_seq (d : FramedOp) (s : State) : (accept d s).seq = s.seq := rfl
@[simp] theorem accept_seqResult (d : FramedOp) (s : State) : (accept d s).seqResult = s.seqResult := rfl
@[simp] theorem accept_callResult (d : FramedOp) (s : State) : (accept d s).callResult = s.callResult := rfl
@[simp] theorem accept_resetPin (d : FramedOp) (s : State) : (accept d s).resetPin = s.resetPin := rfl
@[simp] theorem accept_pulse (d : FramedOp) (s : State) : (accept d s).pulse = s.pulse := rfl
@[simp] theorem accept_env (d : FramedOp) (s : State) : (accept d s).env = s.env := rfl
@[simp] theorem accept_tick (d : FramedOp) (s : State) : (accept d s).tick = s.tick := rfl

/-! ### writeByte -/

@[simp] theorem writeByte_phase (b : Byte) (s : State) : (writeByte b s).phase = s.phase := rfl
@[simp] theorem writeByte_idx (b : Byte) (s : State) : (writeByte b s).idx = s.idx + 1 := rfl
@[simp] theorem writeByte_cs (b : Byte) (s : State) : (writeByte b s).cs = s.cs := rfl
@[simp] theorem writeByte_latches (b : Byte) (s : State) : (writeByte b s).latches = s.latches := rfl
@[simp] theorem writeByte_rbuf (b : Byte) (s : State) : (writeByte b s).rbuf = s.rbuf := rfl
@[simp] theorem writeByte_rsp (b : Byte) (s : State) : (writeByte b s).rsp = s.rsp := rfl
@[simp] theorem writeByte_mosi (b : Byte) (s : State) : (writeByte b s).mosi = s.mosi ++ [b] := rfl
@[simp] theorem writeByte_miso (b : Byte) (s : State) : (writeByte b s).miso = s.miso := rfl
@[simp] theorem writeByte_driven (b : Byte) (s : State) : (writeByte b s).driven = s.driven ++ [b] := rfl
@[simp] theorem writeByte_history (b : Byte) (s : State) : (writeByte b s).history = s.history := rfl
@[simp] theorem writeByte_codec (b : Byte) (s : State) : (writeByte b s).codec = s.codec := rfl
@[simp] theorem writeByte_port (b : Byte) (s : State) : (writeByte b s).port = s.port := rfl
@[simp] theorem writeByte_program (b : Byte) (s : State) : (writeByte b s).program = s.program := rfl
@[simp] theorem writeByte_seq (b : Byte) (s : State) : (writeByte b s).seq = s.seq := rfl
@[simp] theorem writeByte_seqResult (b : Byte) (s : State) : (writeByte b s).seqResult = s.seqResult := rfl
@[simp] theorem writeByte_callResult (b : Byte) (s : State) : (writeByte b s).callResult = s.callResult := rfl
@[simp] theorem writeByte_resetPin (b : Byte) (s : State) : (writeByte b s).resetPin = s.resetPin := rfl
@[simp] theorem writeByte_pulse (b : Byte) (s : State) : (writeByte b s).pulse = s.pulse := rfl
@[simp] theorem writeByte_env (b : Byte) (s : State) : (writeByte b s).env = s.env := rfl
@[simp] theorem writeByte_tick (b : Byte) (s : State) : (writeByte b s).tick = s.tick := rfl

/-! ### readByte -/

@[simp] theorem readByte_phase (p : Pins) (s : State) : (readByte p s).phase = s.phase := rfl
@[simp] theorem readByte_idx (p : Pins) (s : State) : (readByte p s).idx = s.idx + 1 := rfl
@[simp] theorem readByte_cs (p : Pins) (s : State) : (readByte p s).cs = s.cs := rfl
@[simp] theorem readByte_latches (p : Pins) (s : State) : (readByte p s).latches = s.latches := rfl
@[simp] theorem readByte_rbuf (p : Pins) (s : State) : (readByte p s).rbuf = s.rbuf ++ [p.miso] := rfl
@[simp] theorem readByte_rsp (p : Pins) (s : State) : (readByte p s).rsp = s.rsp := rfl
@[simp] theorem readByte_mosi (p : Pins) (s : State) : (readByte p s).mosi = s.mosi := rfl
@[simp] theorem readByte_miso (p : Pins) (s : State) : (readByte p s).miso = s.miso ++ [p.miso] := rfl
@[simp] theorem readByte_driven (p : Pins) (s : State) : (readByte p s).driven = s.driven ++ [Config.fill s.tick] := rfl
@[simp] theorem readByte_history (p : Pins) (s : State) : (readByte p s).history = s.history := rfl
@[simp] theorem readByte_codec (p : Pins) (s : State) : (readByte p s).codec = s.codec := rfl
@[simp] theorem readByte_port (p : Pins) (s : State) : (readByte p s).port = s.port := rfl
@[simp] theorem readByte_program (p : Pins) (s : State) : (readByte p s).program = s.program := rfl
@[simp] theorem readByte_seq (p : Pins) (s : State) : (readByte p s).seq = s.seq := rfl
@[simp] theorem readByte_seqResult (p : Pins) (s : State) : (readByte p s).seqResult = s.seqResult := rfl
@[simp] theorem readByte_callResult (p : Pins) (s : State) : (readByte p s).callResult = s.callResult := rfl
@[simp] theorem readByte_resetPin (p : Pins) (s : State) : (readByte p s).resetPin = s.resetPin := rfl
@[simp] theorem readByte_pulse (p : Pins) (s : State) : (readByte p s).pulse = s.pulse := rfl
@[simp] theorem readByte_env (p : Pins) (s : State) : (readByte p s).env = s.env := rfl
@[simp] theorem readByte_tick (p : Pins) (s : State) : (readByte p s).tick = s.tick := rfl

/-! ### closeTxn -/

@[simp] theorem closeTxn_phase (f : Frame) (o : TxnOutcome) (s : State) : (closeTxn f o s).phase = s.phase := rfl
@[simp] theorem closeTxn_idx (f : Frame) (o : TxnOutcome) (s : State) : (closeTxn f o s).idx = s.idx := rfl
@[simp] theorem closeTxn_cs (f : Frame) (o : TxnOutcome) (s : State) : (closeTxn f o s).cs = .released := rfl
@[simp] theorem closeTxn_latches (f : Frame) (o : TxnOutcome) (s : State) : (closeTxn f o s).latches = s.latches := rfl
@[simp] theorem closeTxn_rbuf (f : Frame) (o : TxnOutcome) (s : State) : (closeTxn f o s).rbuf = s.rbuf := rfl
@[simp] theorem closeTxn_rsp (f : Frame) (o : TxnOutcome) (s : State) : (closeTxn f o s).rsp = s.rsp := rfl
@[simp] theorem closeTxn_mosi (f : Frame) (o : TxnOutcome) (s : State) : (closeTxn f o s).mosi = [] := rfl
@[simp] theorem closeTxn_miso (f : Frame) (o : TxnOutcome) (s : State) : (closeTxn f o s).miso = [] := rfl
@[simp] theorem closeTxn_driven (f : Frame) (o : TxnOutcome) (s : State) : (closeTxn f o s).driven = s.driven := rfl
@[simp] theorem closeTxn_history (f : Frame) (o : TxnOutcome) (s : State) : (closeTxn f o s).history = s.history ++ [.txn (closedTxn f o s)] := rfl
@[simp] theorem closeTxn_codec (f : Frame) (o : TxnOutcome) (s : State) : (closeTxn f o s).codec = s.codec := rfl
@[simp] theorem closeTxn_port (f : Frame) (o : TxnOutcome) (s : State) : (closeTxn f o s).port = s.port := rfl
@[simp] theorem closeTxn_program (f : Frame) (o : TxnOutcome) (s : State) : (closeTxn f o s).program = s.program := rfl
@[simp] theorem closeTxn_seq (f : Frame) (o : TxnOutcome) (s : State) : (closeTxn f o s).seq = s.seq := rfl
@[simp] theorem closeTxn_seqResult (f : Frame) (o : TxnOutcome) (s : State) : (closeTxn f o s).seqResult = s.seqResult := rfl
@[simp] theorem closeTxn_callResult (f : Frame) (o : TxnOutcome) (s : State) : (closeTxn f o s).callResult = s.callResult := rfl
@[simp] theorem closeTxn_resetPin (f : Frame) (o : TxnOutcome) (s : State) : (closeTxn f o s).resetPin = s.resetPin := rfl
@[simp] theorem closeTxn_pulse (f : Frame) (o : TxnOutcome) (s : State) : (closeTxn f o s).pulse = s.pulse := rfl
@[simp] theorem closeTxn_env (f : Frame) (o : TxnOutcome) (s : State) : (closeTxn f o s).env = s.env := rfl
@[simp] theorem closeTxn_tick (f : Frame) (o : TxnOutcome) (s : State) : (closeTxn f o s).tick = s.tick := rfl

/-! ### raiseBusError -/

@[simp] theorem raiseBusError_phase (f : Frame) (e : BusErr) (s : State) : (raiseBusError f e s).phase = .idle := rfl
@[simp] theorem raiseBusError_idx (f : Frame) (e : BusErr) (s : State) : (raiseBusError f e s).idx = 0 := rfl
@[simp] theorem raiseBusError_cs (f : Frame) (e : BusErr) (s : State) : (raiseBusError f e s).cs = .released := rfl
@[simp] theorem raiseBusError_latches (f : Frame) (e : BusErr) (s : State) : (raiseBusError f e s).latches = Latches.empty := rfl
@[simp] theorem raiseBusError_rbuf (f : Frame) (e : BusErr) (s : State) : (raiseBusError f e s).rbuf = [] := rfl
@[simp] theorem raiseBusError_rsp (f : Frame) (e : BusErr) (s : State) : (raiseBusError f e s).rsp = some (.err e) := rfl
@[simp] theorem raiseBusError_mosi (f : Frame) (e : BusErr) (s : State) : (raiseBusError f e s).mosi = [] := rfl
@[simp] theorem raiseBusError_miso (f : Frame) (e : BusErr) (s : State) : (raiseBusError f e s).miso = [] := rfl
@[simp] theorem raiseBusError_driven (f : Frame) (e : BusErr) (s : State) : (raiseBusError f e s).driven = s.driven := rfl
@[simp] theorem raiseBusError_history (f : Frame) (e : BusErr) (s : State) : (raiseBusError f e s).history = s.history ++ [.txn (closedTxn f (.failed e s.idx) s)] := rfl
@[simp] theorem raiseBusError_codec (f : Frame) (e : BusErr) (s : State) : (raiseBusError f e s).codec = s.codec := rfl
@[simp] theorem raiseBusError_port (f : Frame) (e : BusErr) (s : State) : (raiseBusError f e s).port = s.port := rfl
@[simp] theorem raiseBusError_program (f : Frame) (e : BusErr) (s : State) : (raiseBusError f e s).program = s.program := rfl
@[simp] theorem raiseBusError_seq (f : Frame) (e : BusErr) (s : State) : (raiseBusError f e s).seq = s.seq := rfl
@[simp] theorem raiseBusError_seqResult (f : Frame) (e : BusErr) (s : State) : (raiseBusError f e s).seqResult = s.seqResult := rfl
@[simp] theorem raiseBusError_callResult (f : Frame) (e : BusErr) (s : State) : (raiseBusError f e s).callResult = s.callResult := rfl
@[simp] theorem raiseBusError_resetPin (f : Frame) (e : BusErr) (s : State) : (raiseBusError f e s).resetPin = s.resetPin := rfl
@[simp] theorem raiseBusError_pulse (f : Frame) (e : BusErr) (s : State) : (raiseBusError f e s).pulse = s.pulse := rfl
@[simp] theorem raiseBusError_env (f : Frame) (e : BusErr) (s : State) : (raiseBusError f e s).env = s.env := rfl
@[simp] theorem raiseBusError_tick (f : Frame) (e : BusErr) (s : State) : (raiseBusError f e s).tick = s.tick := rfl

/-! ### release -/

@[simp] theorem release_phase (f : Frame) (s : State) : (release f s).phase = .postWait := rfl
@[simp] theorem release_idx (f : Frame) (s : State) : (release f s).idx = s.idx := rfl
@[simp] theorem release_cs (f : Frame) (s : State) : (release f s).cs = .released := rfl
@[simp] theorem release_latches (f : Frame) (s : State) : (release f s).latches = s.latches := rfl
@[simp] theorem release_rbuf (f : Frame) (s : State) : (release f s).rbuf = s.rbuf := rfl
@[simp] theorem release_rsp (f : Frame) (s : State) : (release f s).rsp = s.rsp := rfl
@[simp] theorem release_mosi (f : Frame) (s : State) : (release f s).mosi = [] := rfl
@[simp] theorem release_miso (f : Frame) (s : State) : (release f s).miso = [] := rfl
@[simp] theorem release_driven (f : Frame) (s : State) : (release f s).driven = s.driven := rfl
@[simp] theorem release_history (f : Frame) (s : State) : (release f s).history = s.history ++ [.txn (closedTxn f .done s)] := rfl
@[simp] theorem release_codec (f : Frame) (s : State) : (release f s).codec = s.codec := rfl
@[simp] theorem release_port (f : Frame) (s : State) : (release f s).port = s.port := rfl
@[simp] theorem release_program (f : Frame) (s : State) : (release f s).program = s.program := rfl
@[simp] theorem release_seq (f : Frame) (s : State) : (release f s).seq = s.seq := rfl
@[simp] theorem release_seqResult (f : Frame) (s : State) : (release f s).seqResult = s.seqResult := rfl
@[simp] theorem release_callResult (f : Frame) (s : State) : (release f s).callResult = s.callResult := rfl
@[simp] theorem release_resetPin (f : Frame) (s : State) : (release f s).resetPin = s.resetPin := rfl
@[simp] theorem release_pulse (f : Frame) (s : State) : (release f s).pulse = s.pulse := rfl
@[simp] theorem release_env (f : Frame) (s : State) : (release f s).env = s.env := rfl
@[simp] theorem release_tick (f : Frame) (s : State) : (release f s).tick = s.tick := rfl

/-! ### answer -/

@[simp] theorem answer_phase (v : CodecValue) (s : State) : (answer v s).phase = s.phase := rfl
@[simp] theorem answer_idx (v : CodecValue) (s : State) : (answer v s).idx = s.idx := rfl
@[simp] theorem answer_cs (v : CodecValue) (s : State) : (answer v s).cs = s.cs := rfl
@[simp] theorem answer_latches (v : CodecValue) (s : State) : (answer v s).latches = s.latches := rfl
@[simp] theorem answer_rbuf (v : CodecValue) (s : State) : (answer v s).rbuf = s.rbuf := rfl
@[simp] theorem answer_rsp (v : CodecValue) (s : State) : (answer v s).rsp = s.rsp := rfl
@[simp] theorem answer_mosi (v : CodecValue) (s : State) : (answer v s).mosi = s.mosi := rfl
@[simp] theorem answer_miso (v : CodecValue) (s : State) : (answer v s).miso = s.miso := rfl
@[simp] theorem answer_driven (v : CodecValue) (s : State) : (answer v s).driven = s.driven := rfl
@[simp] theorem answer_history (v : CodecValue) (s : State) : (answer v s).history = s.history := rfl
@[simp] theorem answer_codec (v : CodecValue) (s : State) : (answer v s).codec = some v := rfl
@[simp] theorem answer_port (v : CodecValue) (s : State) : (answer v s).port = s.port := rfl
@[simp] theorem answer_program (v : CodecValue) (s : State) : (answer v s).program = s.program := rfl
@[simp] theorem answer_seq (v : CodecValue) (s : State) : (answer v s).seq = s.seq := rfl
@[simp] theorem answer_seqResult (v : CodecValue) (s : State) : (answer v s).seqResult = s.seqResult := rfl
@[simp] theorem answer_callResult (v : CodecValue) (s : State) : (answer v s).callResult = s.callResult := rfl
@[simp] theorem answer_resetPin (v : CodecValue) (s : State) : (answer v s).resetPin = s.resetPin := rfl
@[simp] theorem answer_pulse (v : CodecValue) (s : State) : (answer v s).pulse = s.pulse := rfl
@[simp] theorem answer_env (v : CodecValue) (s : State) : (answer v s).env = s.env := rfl
@[simp] theorem answer_tick (v : CodecValue) (s : State) : (answer v s).tick = s.tick := rfl

/-! ### passSample -/

@[simp] theorem passSample_phase (s : State) : (passSample s).phase = s.phase := rfl
@[simp] theorem passSample_idx (s : State) : (passSample s).idx = s.idx := rfl
@[simp] theorem passSample_cs (s : State) : (passSample s).cs = s.cs := rfl
@[simp] theorem passSample_latches (s : State) : (passSample s).latches = s.latches := rfl
@[simp] theorem passSample_rbuf (s : State) : (passSample s).rbuf = s.rbuf := rfl
@[simp] theorem passSample_rsp (s : State) : (passSample s).rsp = s.rsp := rfl
@[simp] theorem passSample_mosi (s : State) : (passSample s).mosi = s.mosi := rfl
@[simp] theorem passSample_miso (s : State) : (passSample s).miso = s.miso := rfl
@[simp] theorem passSample_driven (s : State) : (passSample s).driven = s.driven := rfl
@[simp] theorem passSample_history (s : State) : (passSample s).history = s.history := rfl
@[simp] theorem passSample_codec (s : State) : (passSample s).codec = s.codec := rfl
@[simp] theorem passSample_port (s : State) : (passSample s).port = s.port := rfl
@[simp] theorem passSample_program (s : State) : (passSample s).program = s.program := rfl
@[simp] theorem passSample_seq (s : State) : (passSample s).seq = s.seq := rfl
@[simp] theorem passSample_seqResult (s : State) : (passSample s).seqResult = s.seqResult := rfl
@[simp] theorem passSample_callResult (s : State) : (passSample s).callResult = s.callResult := rfl
@[simp] theorem passSample_resetPin (s : State) : (passSample s).resetPin = s.resetPin := rfl
@[simp] theorem passSample_pulse (s : State) : (passSample s).pulse = s.pulse := rfl
@[simp] theorem passSample_env (s : State) : (passSample s).env = s.env.tail := rfl
@[simp] theorem passSample_tick (s : State) : (passSample s).tick = s.tick + 1 := rfl

/-! ### takePort -/

@[simp] theorem takePort_phase (s : State) : (takePort s).phase = s.phase := rfl
@[simp] theorem takePort_idx (s : State) : (takePort s).idx = s.idx := rfl
@[simp] theorem takePort_cs (s : State) : (takePort s).cs = s.cs := rfl
@[simp] theorem takePort_latches (s : State) : (takePort s).latches = s.latches := rfl
@[simp] theorem takePort_rbuf (s : State) : (takePort s).rbuf = s.rbuf := rfl
@[simp] theorem takePort_rsp (s : State) : (takePort s).rsp = s.rsp := rfl
@[simp] theorem takePort_mosi (s : State) : (takePort s).mosi = s.mosi := rfl
@[simp] theorem takePort_miso (s : State) : (takePort s).miso = s.miso := rfl
@[simp] theorem takePort_driven (s : State) : (takePort s).driven = s.driven := rfl
@[simp] theorem takePort_history (s : State) : (takePort s).history = s.history := rfl
@[simp] theorem takePort_codec (s : State) : (takePort s).codec = s.codec := rfl
@[simp] theorem takePort_port (s : State) : (takePort s).port = none := rfl
@[simp] theorem takePort_program (s : State) : (takePort s).program = s.program := rfl
@[simp] theorem takePort_seq (s : State) : (takePort s).seq = s.seq := rfl
@[simp] theorem takePort_seqResult (s : State) : (takePort s).seqResult = s.seqResult := rfl
@[simp] theorem takePort_callResult (s : State) : (takePort s).callResult = s.callResult := rfl
@[simp] theorem takePort_resetPin (s : State) : (takePort s).resetPin = s.resetPin := rfl
@[simp] theorem takePort_pulse (s : State) : (takePort s).pulse = s.pulse := rfl
@[simp] theorem takePort_env (s : State) : (takePort s).env = s.env := rfl
@[simp] theorem takePort_tick (s : State) : (takePort s).tick = s.tick := rfl

/-! ### placeRequest -/

@[simp] theorem placeRequest_phase (r : Request) (s : State) : (placeRequest r s).phase = s.phase := rfl
@[simp] theorem placeRequest_idx (r : Request) (s : State) : (placeRequest r s).idx = s.idx := rfl
@[simp] theorem placeRequest_cs (r : Request) (s : State) : (placeRequest r s).cs = s.cs := rfl
@[simp] theorem placeRequest_latches (r : Request) (s : State) : (placeRequest r s).latches = s.latches := rfl
@[simp] theorem placeRequest_rbuf (r : Request) (s : State) : (placeRequest r s).rbuf = s.rbuf := rfl
@[simp] theorem placeRequest_rsp (r : Request) (s : State) : (placeRequest r s).rsp = s.rsp := rfl
@[simp] theorem placeRequest_mosi (r : Request) (s : State) : (placeRequest r s).mosi = s.mosi := rfl
@[simp] theorem placeRequest_miso (r : Request) (s : State) : (placeRequest r s).miso = s.miso := rfl
@[simp] theorem placeRequest_driven (r : Request) (s : State) : (placeRequest r s).driven = s.driven := rfl
@[simp] theorem placeRequest_history (r : Request) (s : State) : (placeRequest r s).history = s.history := rfl
@[simp] theorem placeRequest_codec (r : Request) (s : State) : (placeRequest r s).codec = s.codec := rfl
@[simp] theorem placeRequest_port (r : Request) (s : State) : (placeRequest r s).port = some r := rfl
@[simp] theorem placeRequest_program (r : Request) (s : State) : (placeRequest r s).program = s.program := rfl
@[simp] theorem placeRequest_seq (r : Request) (s : State) : (placeRequest r s).seq = s.seq := rfl
@[simp] theorem placeRequest_seqResult (r : Request) (s : State) : (placeRequest r s).seqResult = s.seqResult := rfl
@[simp] theorem placeRequest_callResult (r : Request) (s : State) : (placeRequest r s).callResult = s.callResult := rfl
@[simp] theorem placeRequest_resetPin (r : Request) (s : State) : (placeRequest r s).resetPin = s.resetPin := rfl
@[simp] theorem placeRequest_pulse (r : Request) (s : State) : (placeRequest r s).pulse = s.pulse := rfl
@[simp] theorem placeRequest_env (r : Request) (s : State) : (placeRequest r s).env = s.env := rfl
@[simp] theorem placeRequest_tick (r : Request) (s : State) : (placeRequest r s).tick = s.tick := rfl

/-! ### issueOp -/

@[simp] theorem issueOp_phase (d : FramedOp) (k : Collect) (rest : List SeqStep) (got : Gathered) (s : State) : (issueOp d k rest got s).phase = .preWait := rfl
@[simp] theorem issueOp_idx (d : FramedOp) (k : Collect) (rest : List SeqStep) (got : Gathered) (s : State) : (issueOp d k rest got s).idx = s.idx := rfl
@[simp] theorem issueOp_cs (d : FramedOp) (k : Collect) (rest : List SeqStep) (got : Gathered) (s : State) : (issueOp d k rest got s).cs = s.cs := rfl
@[simp] theorem issueOp_latches (d : FramedOp) (k : Collect) (rest : List SeqStep) (got : Gathered) (s : State) : (issueOp d k rest got s).latches = Latches.hold d := rfl
@[simp] theorem issueOp_rbuf (d : FramedOp) (k : Collect) (rest : List SeqStep) (got : Gathered) (s : State) : (issueOp d k rest got s).rbuf = [] := rfl
@[simp] theorem issueOp_rsp (d : FramedOp) (k : Collect) (rest : List SeqStep) (got : Gathered) (s : State) : (issueOp d k rest got s).rsp = none := rfl
@[simp] theorem issueOp_mosi (d : FramedOp) (k : Collect) (rest : List SeqStep) (got : Gathered) (s : State) : (issueOp d k rest got s).mosi = s.mosi := rfl
@[simp] theorem issueOp_miso (d : FramedOp) (k : Collect) (rest : List SeqStep) (got : Gathered) (s : State) : (issueOp d k rest got s).miso = s.miso := rfl
@[simp] theorem issueOp_driven (d : FramedOp) (k : Collect) (rest : List SeqStep) (got : Gathered) (s : State) : (issueOp d k rest got s).driven = s.driven := rfl
@[simp] theorem issueOp_history (d : FramedOp) (k : Collect) (rest : List SeqStep) (got : Gathered) (s : State) : (issueOp d k rest got s).history = s.history := rfl
@[simp] theorem issueOp_codec (d : FramedOp) (k : Collect) (rest : List SeqStep) (got : Gathered) (s : State) : (issueOp d k rest got s).codec = s.codec := rfl
@[simp] theorem issueOp_port (d : FramedOp) (k : Collect) (rest : List SeqStep) (got : Gathered) (s : State) : (issueOp d k rest got s).port = s.port := rfl
@[simp] theorem issueOp_program (d : FramedOp) (k : Collect) (rest : List SeqStep) (got : Gathered) (s : State) : (issueOp d k rest got s).program = s.program := rfl
@[simp] theorem issueOp_seq (d : FramedOp) (k : Collect) (rest : List SeqStep) (got : Gathered) (s : State) : (issueOp d k rest got s).seq = some { todo := rest, flight := some k, got := got } := rfl
@[simp] theorem issueOp_seqResult (d : FramedOp) (k : Collect) (rest : List SeqStep) (got : Gathered) (s : State) : (issueOp d k rest got s).seqResult = s.seqResult := rfl
@[simp] theorem issueOp_callResult (d : FramedOp) (k : Collect) (rest : List SeqStep) (got : Gathered) (s : State) : (issueOp d k rest got s).callResult = s.callResult := rfl
@[simp] theorem issueOp_resetPin (d : FramedOp) (k : Collect) (rest : List SeqStep) (got : Gathered) (s : State) : (issueOp d k rest got s).resetPin = s.resetPin := rfl
@[simp] theorem issueOp_pulse (d : FramedOp) (k : Collect) (rest : List SeqStep) (got : Gathered) (s : State) : (issueOp d k rest got s).pulse = s.pulse := rfl
@[simp] theorem issueOp_env (d : FramedOp) (k : Collect) (rest : List SeqStep) (got : Gathered) (s : State) : (issueOp d k rest got s).env = s.env := rfl
@[simp] theorem issueOp_tick (d : FramedOp) (k : Collect) (rest : List SeqStep) (got : Gathered) (s : State) : (issueOp d k rest got s).tick = s.tick := rfl

/-! ### takeResponse -/

@[simp] theorem takeResponse_phase (r : Response) (s : State) : (takeResponse r s).phase = s.phase := rfl
@[simp] theorem takeResponse_idx (r : Response) (s : State) : (takeResponse r s).idx = s.idx := rfl
@[simp] theorem takeResponse_cs (r : Response) (s : State) : (takeResponse r s).cs = s.cs := rfl
@[simp] theorem takeResponse_latches (r : Response) (s : State) : (takeResponse r s).latches = s.latches := rfl
@[simp] theorem takeResponse_rbuf (r : Response) (s : State) : (takeResponse r s).rbuf = s.rbuf := rfl
@[simp] theorem takeResponse_rsp (r : Response) (s : State) : (takeResponse r s).rsp = none := rfl
@[simp] theorem takeResponse_mosi (r : Response) (s : State) : (takeResponse r s).mosi = s.mosi := rfl
@[simp] theorem takeResponse_miso (r : Response) (s : State) : (takeResponse r s).miso = s.miso := rfl
@[simp] theorem takeResponse_driven (r : Response) (s : State) : (takeResponse r s).driven = s.driven := rfl
@[simp] theorem takeResponse_history (r : Response) (s : State) : (takeResponse r s).history = s.history := rfl
@[simp] theorem takeResponse_codec (r : Response) (s : State) : (takeResponse r s).codec = s.codec := rfl
@[simp] theorem takeResponse_port (r : Response) (s : State) : (takeResponse r s).port = s.port := rfl
@[simp] theorem takeResponse_program (r : Response) (s : State) : (takeResponse r s).program = s.program := rfl
@[simp] theorem takeResponse_seq (r : Response) (s : State) : (takeResponse r s).seq = s.seq := rfl
@[simp] theorem takeResponse_seqResult (r : Response) (s : State) : (takeResponse r s).seqResult = s.seqResult := rfl
@[simp] theorem takeResponse_callResult (r : Response) (s : State) : (takeResponse r s).callResult = some r := rfl
@[simp] theorem takeResponse_resetPin (r : Response) (s : State) : (takeResponse r s).resetPin = s.resetPin := rfl
@[simp] theorem takeResponse_pulse (r : Response) (s : State) : (takeResponse r s).pulse = s.pulse := rfl
@[simp] theorem takeResponse_env (r : Response) (s : State) : (takeResponse r s).env = s.env := rfl
@[simp] theorem takeResponse_tick (r : Response) (s : State) : (takeResponse r s).tick = s.tick := rfl

end Sys2Proof.Machine
end

