-- ==== Sys2Proof/Laws/Ops.lean ====
section
/-! SUPPORT. One lemma for each shared operation: all it can do. -/

namespace Sys2Proof.Machine

/-! ## Frames and latches -/

/-- The latches of an accepted operation are read back whole. -/
@[simp] theorem hold_held (d : FramedOp) : (Latches.hold d).held = some d := by cases d <;> rfl

@[simp] theorem hold_frame (d : FramedOp) : (Latches.hold d).frame = some (frameOf d) := by
  simp [Latches.frame]

@[simp] theorem empty_frame : Latches.empty.frame = none := rfl

/-- Every frame has a first byte (R50). -/
theorem frameOf_out_ne_nil (d : FramedOp) : (frameOf d).out ≠ [] := by
  cases d <;> simp [frameOf, Frame.out]

/-! ## Engine operations -/

theorem accept_eq_taken (d : FramedOp) (s : State) : accept d s = taken (Latches.hold d) s := rfl

/-- Pre-wait holds or selects (R88). -/
theorem preWaitMove_cases (p : Pins) (s : State) :
    (p.busy = .high ∧ preWaitMove p s = s) ∨
    (p.busy = .low ∧ preWaitMove p s = { s with
      history := s.history ++ [.busyLow .pre], cs := .asserted, idx := 0, phase := .xfer
      mosi := [], miso := [], driven := [] }) := by
  unfold preWaitMove
  cases h : p.busy
  · exact Or.inr ⟨rfl, rfl⟩
  · exact Or.inl ⟨rfl, rfl⟩

/-- Post-wait holds or answers (R93). -/
theorem postWaitMove_cases (p : Pins) (s : State) :
    (p.busy = .high ∧ postWaitMove p s = s) ∨
    (p.busy = .low ∧ postWaitMove p s = { s with
      rsp := some (.ok s.rbuf), history := s.history ++ [.busyLow .post], phase := .idle }) := by
  unfold postWaitMove
  cases h : p.busy
  · exact Or.inr ⟨rfl, rfl⟩
  · exact Or.inl ⟨rfl, rfl⟩

/-- One event of an open transaction fails, writes, reads or releases (R89 to R92). -/
theorem busEvent_cases (f : Frame) (p : Pins) (s : State) (h : s.idx ≤ f.out.length + f.reads) :
    (∃ e, p.bus = some e ∧ busEvent f p s = raiseBusError f e s) ∨
    (p.bus = none ∧ ∃ b, f.out[s.idx]? = some b ∧ s.idx < f.out.length ∧ busEvent f p s = writeByte b s) ∨
    (p.bus = none ∧ f.out.length ≤ s.idx ∧ s.idx < f.out.length + f.reads ∧ busEvent f p s = readByte p s) ∨
    (p.bus = none ∧ s.idx = f.out.length + f.reads ∧ busEvent f p s = release f s) := by
  unfold busEvent
  cases hb : p.bus with
  | some e => exact Or.inl ⟨e, rfl, rfl⟩
  | none =>
    cases hi : f.out[s.idx]? with
    | some b =>
      have hlt : s.idx < f.out.length := (List.getElem?_eq_some_iff.mp hi).1
      exact Or.inr (Or.inl ⟨rfl, b, rfl, hlt, rfl⟩)
    | none =>
      have hge : f.out.length ≤ s.idx := List.getElem?_eq_none_iff.mp hi
      by_cases hlt : s.idx < f.out.length + f.reads
      · exact Or.inr (Or.inr (Or.inl ⟨rfl, hge, hlt, by simp [hlt]⟩))
      · exact Or.inr (Or.inr (Or.inr ⟨rfl, by omega, by simp [hlt]⟩))

/-- The transfer step goes on only with a held frame and a position in it (R15, R12). -/
theorem xferMove_next {p : Pins} {s t : State} (h : xferMove p s = .next t) :
    ∃ f, s.latches.frame = some f ∧ s.idx ≤ f.out.length + f.reads ∧ t = busEvent f p s := by
  unfold xferMove at h
  split at h
  · simp at h
  · rename_i f hf
    split at h
    · rename_i hle
      simp only [Host.Outcome.next.injEq] at h
      exact ⟨f, hf, hle, h.symm⟩
    · simp at h

theorem xferMove_of_frame {p : Pins} {s : State} {f : Frame} (hf : s.latches.frame = some f)
    (hi : s.idx ≤ f.out.length + f.reads) : xferMove p s = .next (busEvent f p s) := by
  simp [xferMove, hf, hi]

/-- A step ends in a next state exactly when its move does. -/
theorem settle_next {o : Host.Outcome State Fault Refusal} {t : State} (h : settle o = .next t) :
    ∃ u, o = .next u ∧ t = passSample u := by
  cases o with
  | next u => exact ⟨u, rfl, by simpa [settle] using h.symm⟩
  | fault r => simp [settle] at h
  | refused r => simp [settle] at h

/-! ## The host -/

/-- A transport request is accepted when the engine is IDLE and refused otherwise (R87). -/
theorem request_cases (d : FramedOp) (s : State) :
    (s.phase = .idle ∧ request d s = .next (accept d s)) ∨
    (s.phase ≠ .idle ∧ request d s = .refused .requestInFlight) := by
  unfold request
  by_cases h : s.phase = .idle
  · exact Or.inl ⟨h, by simp [h]⟩
  · exact Or.inr ⟨h, by simp [h]⟩

/-- A sequence is begun when the engine is IDLE and no other is in progress, and refused otherwise (U8). -/
theorem startSeq_cases (steps : List SeqStep) (s : State) :
    (s.phase = .idle ∧ s.seq = none ∧ startSeq steps s = .next (beginSeq Config.catalog steps s)) ∨
    (∃ r, startSeq steps s = .refused r) := by
  unfold startSeq
  by_cases h : s.phase = .idle
  · cases hq : s.seq with
    | none => exact Or.inl ⟨h, rfl, by simp [h]⟩
    | some q => exact Or.inr ⟨.sequenceInProgress, by simp [h]⟩
  · exact Or.inr ⟨.requestInFlight, by simp [h]⟩

/-- A sequence whose first step is an operation requests it at once. -/
theorem beginSeq_op (c : Catalog) (d : FramedOp) (k : Collect) (rest : List SeqStep) (s : State) :
    beginSeq c (.op d k :: rest) s = issueOp d k rest Gathered.empty { s with seqResult := none } := rfl

/-- What the host's sequence machinery can do to a state: request one operation, or leave the engine and the
history alone. -/
theorem issueStep_cases (c : Catalog) (p : Pins) (st : SeqStep) (rest : List SeqStep) (got : Gathered) (s : State) :
    (∃ d k, issueStep c p st rest got s = issueOp d k rest got s) ∨
    (∃ q pin pulse, issueStep c p st rest got s = { s with seq := q, resetPin := pin, pulse := pulse }) := by
  cases st with
  | op d k => exact Or.inl ⟨d, k, rfl⟩
  | clearIrq => exact Or.inl ⟨_, _, rfl⟩
  | fetchPayload => exact Or.inl ⟨_, _, rfl⟩
  | waitIrq =>
    refine Or.inr ?_
    cases h : p.irq
    · exact ⟨s.seq, s.resetPin, s.pulse, by simp [issueStep, h]⟩
    · exact ⟨some ⟨rest, none, got⟩, s.resetPin, s.pulse, by simp only [issueStep, h]⟩
  | pinLow => exact Or.inr ⟨_, _, _, rfl⟩
  | pinHigh => exact Or.inr ⟨_, _, _, rfl⟩
  | delay ms =>
    refine Or.inr ?_
    by_cases h : p.elapsed = true
    · exact ⟨some ⟨rest, none, got⟩, s.resetPin, s.pulse ++ [.delayed ms], by simp only [issueStep, h, if_true]⟩
    · exact ⟨s.seq, s.resetPin, s.pulse, by simp [issueStep, h]⟩

/-- The host's move in a sequence requests one operation, or changes the host's own fields only, but for taking the
response, which leaves `RSP` empty. -/
theorem seqMove_cases (c : Catalog) (p : Pins) (q : SeqRun) (s : State) :
    (∃ d k rest got, seqMove c p q s = issueOp d k rest got s) ∨
    (∃ rsp sq res pin pulse, (rsp = s.rsp ∨ rsp = none) ∧
      seqMove c p q s = { s with rsp := rsp, seq := sq, seqResult := res, resetPin := pin, pulse := pulse }) := by
  unfold seqMove
  split
  · split
    · exact Or.inr ⟨s.rsp, s.seq, s.seqResult, s.resetPin, s.pulse, Or.inl rfl, rfl⟩
    · exact Or.inr ⟨none, _, _, s.resetPin, s.pulse, Or.inr rfl, rfl⟩
    · exact Or.inr ⟨none, _, s.seqResult, s.resetPin, s.pulse, Or.inr rfl, rfl⟩
  · split
    · exact Or.inr ⟨s.rsp, _, _, s.resetPin, s.pulse, Or.inl rfl, rfl⟩
    · rename_i st rest _
      rcases issueStep_cases c p st rest q.got s with ⟨d, k, h⟩ | ⟨sq, pin, pulse, h⟩
      · exact Or.inl ⟨d, k, rest, q.got, h⟩
      · exact Or.inr ⟨s.rsp, sq, s.seqResult, pin, pulse, Or.inl rfl, h⟩

/-- With a sequence in progress the host's move is the sequence's. -/
theorem hostMove_seq {c : Catalog} {p : Pins} {s : State} {q : SeqRun} (hq : s.seq = some q) :
    hostMove c p s = seqMove c p q s := by simp [hostMove, hq]

/-- Without one the host first takes the response that stands in `RSP`. -/
theorem hostMove_take {c : Catalog} {p : Pins} {s : State} {r : Response} (hq : s.seq = none) (hr : s.rsp = some r) :
    hostMove c p s = takeResponse r s := by simp [hostMove, hq, hr]

/-- And then takes up the next item of its program. -/
theorem hostMove_program {c : Catalog} {p : Pins} {s : State} (hq : s.seq = none) (hr : s.rsp = none) :
    hostMove c p s = programMove c s := by simp [hostMove, hq, hr]

/-- A host with nothing to do at most takes the response. -/
theorem hostMove_quiet {c : Catalog} {p : Pins} {s : State} (hq : s.seq = none) (hg : s.program = []) :
    hostMove c p s = s ∨ ∃ r, hostMove c p s = takeResponse r s := by
  cases hr : s.rsp with
  | none => exact Or.inl (by simp [hostMove_program hq hr, programMove, hg])
  | some r => exact Or.inr ⟨r, hostMove_take hq hr⟩

/-- The host's move requests one operation, or changes the host's own fields and the port only, but for taking the
response, which leaves `RSP` empty. -/
theorem hostMove_cases (c : Catalog) (p : Pins) (s : State) :
    (∃ d k rest got prog res, hostMove c p s = issueOp d k rest got { s with program := prog, seqResult := res }) ∨
    (∃ rsp po prog sq res call pin pulse, (rsp = s.rsp ∨ rsp = none) ∧ hostMove c p s =
      { s with
        rsp := rsp, port := po, program := prog, seq := sq, seqResult := res, callResult := call
        resetPin := pin, pulse := pulse }) := by
  have viaSeq : ∀ (q : SeqRun) (prog : List HostItem) (res : Option SeqResult) (pins : Pins),
      (∃ d k rest got prog' res', seqMove c pins q { s with program := prog, seqResult := res } =
        issueOp d k rest got { s with program := prog', seqResult := res' }) ∨
      (∃ rsp po prog' sq res' call pin pulse, (rsp = s.rsp ∨ rsp = none) ∧
        seqMove c pins q { s with program := prog, seqResult := res } =
          { s with
            rsp := rsp, port := po, program := prog', seq := sq, seqResult := res', callResult := call
            resetPin := pin, pulse := pulse }) := by
    intro q prog res pins
    rcases seqMove_cases c pins q { s with program := prog, seqResult := res } with
      ⟨d, k, rest, got, h⟩ | ⟨rsp, sq, res', pin, pulse, hr, h⟩
    · exact Or.inl ⟨d, k, rest, got, prog, res, h⟩
    · exact Or.inr ⟨rsp, s.port, prog, sq, res', s.callResult, pin, pulse, hr, h⟩
  unfold hostMove
  split
  · rename_i q hq
    exact viaSeq q s.program s.seqResult p
  · split
    · rename_i r _
      exact Or.inr ⟨none, s.port, s.program, s.seq, s.seqResult, some r, s.resetPin, s.pulse, Or.inr rfl, rfl⟩
    · unfold programMove
      split
      · exact Or.inr ⟨s.rsp, s.port, s.program, s.seq, s.seqResult, s.callResult, s.resetPin, s.pulse, Or.inl rfl, rfl⟩
      · rename_i r prog hp
        exact Or.inr ⟨s.rsp, some r, prog, s.seq, s.seqResult, s.callResult, s.resetPin, s.pulse, Or.inl rfl, rfl⟩
      · exact viaSeq _ _ none s.pins
      · exact viaSeq _ _ none s.pins

end Sys2Proof.Machine
end

