-- ==== Sys2Proof/Laws/PerInstr.lean ====
section
/-! SUPPORT. A statement about every instruction as syntax, made constructor by constructor: only CMD, REGR and
BUFR carry a read count (10_state.md R10, `L.RLEN`). -/

namespace Sys2Proof.Laws.ReadCount

/-- The number of bytes an instruction reads over the bus in its own frame. -/
def count : Instr → Nat
  | .cmd _ _ rlen => rlen
  | .regr _ rlen => rlen
  | .bufr _ rlen => rlen
  | _ => 0

/-- The request's read count is the instruction's. -/
def Statement (i : Instr) : Prop := (encode i).rlen = count i

theorem cmd (opc : Byte) (wdata : List Byte) (rlen : Nat) : Statement (.cmd opc wdata rlen) := rfl
theorem regw (addr : Half) (wdata : List Byte) : Statement (.regw addr wdata) := rfl
theorem regr (addr : Half) (rlen : Nat) : Statement (.regr addr rlen) := rfl
theorem bufw (off : Byte) (wdata : List Byte) : Statement (.bufw off wdata) := rfl
theorem bufr (off : Byte) (rlen : Nat) : Statement (.bufr off rlen) := rfl
theorem flush : Statement .flush := rfl
theorem freqHz (hz : BitVec 32) : Statement (.freqHz hz) := rfl
theorem freqRaw (b0 b1 b2 : Byte) : Statement (.freqRaw b0 b1 b2) := rfl
theorem freqBytes (f : Frequency) : Statement (.freqBytes f) := rfl
theorem modPack (sf : SpreadingFactor) (bw : Bandwidth) (cr : CodingRate) : Statement (.modPack sf bw cr) := rfl
theorem modField (sf : SpreadingFactor) (bw : Bandwidth) (cr : CodingRate) : Statement (.modField sf bw cr) := rfl
theorem modFec (sf : SpreadingFactor) : Statement (.modFec sf) := rfl
theorem pktPre (mant exp : Byte) : Statement (.pktPre mant exp) := rfl
theorem pktPack (mant exp : Byte) (hdr : HeaderType) (len : Byte) (crc : CrcMode) (iq : IqMode) :
    Statement (.pktPack mant exp hdr len crc iq) := rfl
theorem pktField (mant exp : Byte) (hdr : HeaderType) (len : Byte) (crc : CrcMode) (iq : IqMode) :
    Statement (.pktField mant exp hdr len crc iq) := rfl
theorem txpMake (power : Byte) (ramp : RampTime) : Statement (.txpMake power ramp) := rfl
theorem irqOr (flags : List IrqFlag) : Statement (.irqOr flags) := rfl
theorem statMode (status : Byte) : Statement (.statMode status) := rfl
theorem calAll : Statement .calAll := rfl
theorem setfreq (f : Frequency) : Statement (.setfreq f) := rfl
theorem setmod (sf : SpreadingFactor) (bw : Bandwidth) (cr : CodingRate) : Statement (.setmod sf bw cr) := rfl
theorem setpkt (pkt : PacketParams) : Statement (.setpkt pkt) := rfl
theorem calibrate : Statement .calibrate := rfl
theorem configure (modem : ModemParams) : Statement (.configure modem) := rfl
theorem send (payload : List Byte) : Statement (.send payload) := rfl

end Sys2Proof.Laws.ReadCount
end

