-- ==== Sys2Proof/Laws/Step.lean ====
section
/-! SUPPORT. What a step is, by what is at the port and by the phase; and what it can do. -/

namespace Sys2Proof.Machine

theorem fetch_none {s : State} (h : s.port = none) : fetch s = .ok none := by simp [fetch, h]

/-- With nothing at the port the agent whose turn it is moves. -/
theorem step_agent {s : State} (h : s.port = none) : step s = settle (agentMove s) := by
  simp [step, fetch_none h]

theorem step_idle {s : State} (hp : s.port = none) (h : s.phase = .idle) :
    step s = .next (passSample (hostMove Config.catalog s.pins s)) := by
  simp [step_agent hp, agentMove, h, settle]

theorem step_preWait {s : State} (hp : s.port = none) (h : s.phase = .preWait) :
    step s = .next (passSample (preWaitMove s.pins s)) := by
  simp [step_agent hp, agentMove, h, settle]

theorem step_xfer {s : State} {f : Frame} (hp : s.port = none) (h : s.phase = .xfer)
    (hf : s.latches.frame = some f) (hi : s.idx ≤ f.out.length + f.reads) :
    step s = .next (passSample (busEvent f s.pins s)) := by
  simp [step_agent hp, agentMove, h, xferMove_of_frame hf hi, settle]

theorem step_postWait {s : State} (hp : s.port = none) (h : s.phase = .postWait) :
    step s = .next (passSample (postWaitMove s.pins s)) := by
  simp [step_agent hp, agentMove, h, settle]

/-- The present sample is the first scheduled one. -/
theorem pins_of_env {s : State} {p : Pins} {rest : List Pins} (h : s.env = p :: rest) : s.pins = p := by
  simp [State.pins, h]

/-- The outcomes of `exec`: a codec answers, an operation is accepted, FLUSH answers, a sequence requests its
first operation, or the host is refused. -/
inductive Executed (s : State) : Host.Outcome State Fault Refusal → Prop
  | answers (v : CodecValue) : Executed s (.next (answer v s))
  | accepts (d : FramedOp) (h : s.phase = .idle) : Executed s (.next (accept d s))
  | flushes (h : s.phase = .idle) : Executed s (.next (s.respondOk []))
  | begins (d : FramedOp) (k : Collect) (rest : List SeqStep) (h : s.phase = .idle) (hq : s.seq = none) :
      Executed s (.next (issueOp d k rest Gathered.empty { s with seqResult := none }))
  | refuses (r : Refusal) : Executed s (.refused r)

theorem request_executed (d : FramedOp) (s : State) : Executed s (request d s) := by
  rcases request_cases d s with ⟨h, e⟩ | ⟨_, e⟩ <;> rw [e]
  · exact .accepts d h
  · exact .refuses _

theorem startSeq_executed (d : FramedOp) (k : Collect) (rest : List SeqStep) (s : State) :
    Executed s (startSeq (.op d k :: rest) s) := by
  rcases startSeq_cases (.op d k :: rest) s with ⟨h, hq, e⟩ | ⟨r, e⟩ <;> rw [e]
  · exact .begins d k rest h hq
  · exact .refuses r

theorem exec_executed (i : Instr) (s : State) : Executed s (exec i s) := by
  cases i with
  | cmd opc wdata rlen => exact request_executed _ s
  | regw addr wdata => exact request_executed _ s
  | regr addr rlen => exact request_executed _ s
  | bufw off wdata => exact request_executed _ s
  | bufr off rlen => exact request_executed _ s
  | flush =>
    by_cases h : s.phase = .idle
    · simpa [exec, execFlush, h] using Executed.flushes h
    · simpa [exec, execFlush, h] using Executed.refuses .requestInFlight
  | freqHz hz => exact .answers _
  | freqRaw b0 b1 b2 => exact .answers _
  | freqBytes f => exact .answers _
  | modPack sf bw cr => exact .answers _
  | modField sf bw cr => exact .answers _
  | modFec sf => exact .answers _
  | pktPre mant exp => exact .answers _
  | pktPack mant exp hdr len crc iq => exact .answers _
  | pktField mant exp hdr len crc iq => exact .answers _
  | txpMake power ramp => exact .answers _
  | irqOr flags => exact .answers _
  | statMode status => exact .answers _
  | calAll => exact .answers _
  | setfreq f => exact startSeq_executed _ _ _ s
  | setmod sf bw cr => exact startSeq_executed _ _ _ s
  | setpkt pkt => exact startSeq_executed _ _ _ s
  | calibrate => exact startSeq_executed _ _ _ s
  | configure modem => exact startSeq_executed _ _ _ s
  | send payload => exact startSeq_executed _ _ _ s

/-- Everything a step that gives a next state can have done. -/
theorem step_cases {s t : State} (h : step s = .next t) :
    (∃ i u, exec i (takePort s) = .next u ∧ t = passSample u) ∨
    (s.port = none ∧ s.phase = .idle ∧ t = passSample (hostMove Config.catalog s.pins s)) ∨
    (s.port = none ∧ s.phase = .preWait ∧ t = passSample (preWaitMove s.pins s)) ∨
    (s.port = none ∧ s.phase = .postWait ∧ t = passSample (postWaitMove s.pins s)) ∨
    (s.port = none ∧ s.phase = .xfer ∧ ∃ f, s.latches.frame = some f ∧ s.idx ≤ f.out.length + f.reads ∧
      t = passSample (busEvent f s.pins s)) := by
  cases hp : s.port with
  | some r =>
    unfold step at h
    split at h
    · simp at h
    · rename_i i _
      obtain ⟨u, hu, ht⟩ := settle_next h
      exact Or.inl ⟨i, u, hu, ht⟩
    · rename_i hf
      exfalso
      simp only [fetch, hp] at hf
      repeat (split at hf <;> simp at hf)
  | none =>
    rw [step_agent hp] at h
    obtain ⟨u, hu, ht⟩ := settle_next h
    cases hph : s.phase with
    | idle =>
      simp only [agentMove, hph, Host.Outcome.next.injEq] at hu
      exact Or.inr (Or.inl ⟨rfl, rfl, by rw [ht, ← hu]⟩)
    | preWait =>
      simp only [agentMove, hph, Host.Outcome.next.injEq] at hu
      exact Or.inr (Or.inr (Or.inl ⟨rfl, rfl, by rw [ht, ← hu]⟩))
    | postWait =>
      simp only [agentMove, hph, Host.Outcome.next.injEq] at hu
      exact Or.inr (Or.inr (Or.inr (Or.inl ⟨rfl, rfl, by rw [ht, ← hu]⟩)))
    | xfer =>
      simp only [agentMove, hph] at hu
      obtain ⟨f, hf, hi, hb⟩ := xferMove_next hu
      exact Or.inr (Or.inr (Or.inr (Or.inr ⟨rfl, rfl, f, hf, hi, by rw [ht, hb]⟩)))

/-- A run of one step more takes that step first. -/
theorem run_step (n : Nat) (s : State) : run (n + 1) s =
    match step s with
    | .next t => run n t
    | .fault r => .fault r
    | .refused r => .refused r := by
  have h : Sys2Proof.core.step s = step s := rfl
  cases hs : step s with
  | next t => simp only [run, Host.Core.run, h.trans hs]; rfl
  | fault r => simp only [run, Host.Core.run, h.trans hs]; rfl
  | refused r => simp only [run, Host.Core.run, h.trans hs]; rfl

theorem run_succ {n : Nat} {s t : State} (h : step s = .next t) : run (n + 1) s = run n t := by
  rw [run_step, h]

theorem run_zero (s : State) : run 0 s = .next s := rfl

/-- A run is one part after the other. -/
theorem run_add {m n : Nat} {s t : State} (h : run m s = .next t) : run (m + n) s = run n t := by
  induction m generalizing s with
  | zero =>
    have hst : s = t := by simpa [run_zero] using h
    rw [hst, Nat.zero_add]
  | succ m ih =>
    rw [run_step] at h
    rw [show m + 1 + n = (m + n) + 1 by omega]
    cases hs : step s with
    | next u =>
      rw [hs] at h
      rw [run_succ hs]
      exact ih h
    | fault r => simp [hs] at h
    | refused r => simp [hs] at h

end Sys2Proof.Machine
end

