-- ==== Sys2Proof/Laws/Run.lean ====
section
/-! SUPPORT. Stretches of a transaction: a cooperative environment carries the written part and the read part byte by
byte. -/

namespace Sys2Proof.Machine

/-- One carried byte of the written part (R89). -/
theorem step_write {s : State} {f : Frame} {b : Byte} {p : Pins} {rest : List Pins} (hp : s.port = none)
    (hx : s.phase = .xfer) (hf : s.latches.frame = some f) (hb : f.out[s.idx]? = some b) (he : s.env = p :: rest)
    (hc : p.bus = none) :
    step s = .next { s with
      mosi := s.mosi ++ [b], driven := s.driven ++ [b], idx := s.idx + 1, env := rest, tick := s.tick + 1 } := by
  have hi : s.idx < f.out.length := (List.getElem?_eq_some_iff.mp hb).1
  rw [step_xfer hp hx hf (by omega), pins_of_env he]
  simp [busEvent, hc, hb, writeByte, passSample, he]

/-- One carried byte of the read part (R90). -/
theorem step_read {s : State} {f : Frame} {p : Pins} {rest : List Pins} (hp : s.port = none) (hx : s.phase = .xfer)
    (hf : s.latches.frame = some f) (h1 : f.out.length ≤ s.idx) (h2 : s.idx < f.out.length + f.reads)
    (he : s.env = p :: rest) (hc : p.bus = none) :
    step s = .next { s with
      rbuf := s.rbuf ++ [p.miso], miso := s.miso ++ [p.miso], driven := s.driven ++ [Config.fill s.tick]
      idx := s.idx + 1, env := rest, tick := s.tick + 1 } := by
  rw [step_xfer hp hx hf (by omega), pins_of_env he]
  simp [busEvent, hc, List.getElem?_eq_none h1, h2, readByte, passSample, he]

/-- A stretch `bs` of the written part, from the position it begins at. -/
theorem run_write {f : Frame} (bs : List Byte) (ps rest : List Pins) (s : State) (pre post : List Byte)
    (hp : s.port = none) (hx : s.phase = .xfer) (hf : s.latches.frame = some f) (ho : f.out = pre ++ bs ++ post)
    (hi : s.idx = pre.length) (he : s.env = ps ++ rest) (hl : ps.length = bs.length) (hc : ∀ p ∈ ps, p.bus = none) :
    run ps.length s = .next { s with
      mosi := s.mosi ++ bs, driven := s.driven ++ bs, idx := s.idx + ps.length, env := rest
      tick := s.tick + ps.length } := by
  induction ps generalizing bs pre s with
  | nil =>
    obtain rfl : bs = [] := List.eq_nil_of_length_eq_zero hl.symm
    have : s.env = rest := he
    simp [run_zero, ← this]
  | cons p ps ih =>
    match bs, hl with
    | b :: bs, hl =>
      have hb : f.out[s.idx]? = some b := by simp [ho, hi]
      have hs := step_write hp hx hf hb he (hc p (by simp))
      have hr := ih bs
        { s with
          mosi := s.mosi ++ [b], driven := s.driven ++ [b], idx := s.idx + 1, env := ps ++ rest, tick := s.tick + 1 }
        (pre ++ [b]) hp hx hf (by simp [ho]) (by simp [hi]) rfl (by simpa using hl) (fun q hq => hc q (by simp [hq]))
      rw [List.length_cons, run_succ hs]
      refine hr.trans ?_
      simp only [List.append_assoc, List.cons_append, List.nil_append, Nat.add_assoc, Nat.add_comm 1]

/-- A stretch of the read part; what goes out meanwhile is free (D6). -/
theorem run_read {f : Frame} (ps rest : List Pins) (s : State) (hp : s.port = none) (hx : s.phase = .xfer)
    (hf : s.latches.frame = some f) (h1 : f.out.length ≤ s.idx) (h2 : s.idx + ps.length ≤ f.out.length + f.reads)
    (he : s.env = ps ++ rest) (hc : ∀ p ∈ ps, p.bus = none) :
    ∃ fill, fill.length = ps.length ∧ run ps.length s = .next { s with
      rbuf := s.rbuf ++ ps.map Pins.miso, miso := s.miso ++ ps.map Pins.miso, driven := s.driven ++ fill
      idx := s.idx + ps.length, env := rest, tick := s.tick + ps.length } := by
  induction ps generalizing s with
  | nil =>
    have : s.env = rest := he
    exact ⟨[], rfl, by simp [run_zero, ← this]⟩
  | cons p ps ih =>
    rw [List.length_cons] at h2
    have hs := step_read hp hx hf h1 (by omega) he (hc p (by simp))
    obtain ⟨fill, hfl, hr⟩ := ih
      { s with
        rbuf := s.rbuf ++ [p.miso], miso := s.miso ++ [p.miso], driven := s.driven ++ [Config.fill s.tick]
        idx := s.idx + 1, env := ps ++ rest, tick := s.tick + 1 }
      hp hx hf (Nat.le_succ_of_le h1) (by show s.idx + 1 + ps.length ≤ _; omega) rfl (fun q hq => hc q (by simp [hq]))
    refine ⟨Config.fill s.tick :: fill, by simp [hfl], ?_⟩
    rw [List.length_cons, run_succ hs]
    refine hr.trans ?_
    simp only [List.append_assoc, List.cons_append, List.nil_append, List.map_cons, Nat.add_assoc, Nat.add_comm 1]

/-- The state once busy has been observed low and chip-select asserted, `env` being what is left of the schedule
(R88). -/
def opened (s : State) (env : List Pins) : State :=
  { s with
    history := s.history ++ [.busyLow .pre], cs := .asserted, idx := 0, phase := .xfer, mosi := [], miso := []
    driven := [], env := env, tick := s.tick + 1 }

theorem step_opened {s : State} {p : Pins} {rest : List Pins} (hp : s.port = none) (h : s.phase = .preWait)
    (he : s.env = p :: rest) (hb : p.busy = .low) : step s = .next (opened s rest) := by
  rw [step_preWait hp h, pins_of_env he]
  simp [preWaitMove, hb, passSample, he, opened]

/-- The pre-wait and the first `k` bytes of the frame, `k` up to its whole length, written part and read part (R88 to
R90). -/
theorem run_bytes {f : Frame} (s : State) (hf : s.latches.frame = some f) (hp : s.port = none) (h : s.phase = .preWait)
    (hr : s.rbuf = []) (k : Nat) (hk : k ≤ f.out.length + f.reads) (ps rest : List Pins) (he : s.env = ps ++ rest)
    (hl : ps.length = k + 1) (hc : ∀ p ∈ ps, Cooperative p) :
    ∃ fill, fill.length = k - f.out.length ∧ run (k + 1) s = .next { s with
      history := s.history ++ [.busyLow .pre], cs := .asserted, idx := k, phase := .xfer, mosi := f.out.take k
      miso := (ps.drop (1 + f.out.length)).map Pins.miso, rbuf := (ps.drop (1 + f.out.length)).map Pins.miso
      driven := f.out.take k ++ fill, env := rest, tick := s.tick + (k + 1) } := by
  obtain ⟨p, ps, rfl⟩ : ∃ p qs, ps = p :: qs := by
    cases ps with
    | nil => simp at hl
    | cons p qs => exact ⟨p, qs, rfl⟩
  have hl' : ps.length = k := by simpa using hl
  have hs : step s = .next (opened s (ps ++ rest)) := step_opened hp h he (hc p (by simp)).1
  have hc' : ∀ q ∈ ps, q.bus = none := fun q hq => (hc q (by simp [hq])).2
  have hw := run_write (f := f) (f.out.take k) (ps.take f.out.length) (ps.drop f.out.length ++ rest) (opened s (ps ++ rest)) [] (f.out.drop k)
    hp rfl hf (by simp) rfl (by simp [opened, ← List.append_assoc]) (by simp; omega) (fun q hq => hc' q (List.mem_of_mem_take hq))
  have hkk : (ps.take f.out.length).length = min f.out.length k := by simp [hl']
  by_cases hw0 : k ≤ f.out.length
  · refine ⟨[], by simp; omega, ?_⟩
    have e1 : ps.take f.out.length = ps := List.take_of_length_le (by omega)
    have e2 : ps.drop f.out.length = [] := List.drop_eq_nil_of_le (by omega)
    rw [e1, e2, hl'] at hw
    rw [run_succ hs]
    refine hw.trans ?_
    simp [opened, hr, Nat.add_comm 1, e2, Nat.add_assoc]
  · have hW : min f.out.length k = f.out.length := by omega
    obtain ⟨fill, hfl, hrd⟩ := run_read (f := f) (ps.drop f.out.length) rest 
      { opened s (ps ++ rest) with mosi := f.out, driven := f.out, idx := f.out.length, env := ps.drop f.out.length ++ rest, tick := s.tick + 1 + f.out.length }
      hp rfl hf (by simp) (by simp; omega) rfl (fun q hq => hc' q (List.mem_of_mem_drop hq))
    refine ⟨fill, by simp [hfl, hl'], ?_⟩
    rw [hkk, hW] at hw
    have e1 : f.out.take k = f.out := List.take_of_length_le (by omega)
    rw [e1] at hw
    have hall : run (f.out.length + (ps.drop f.out.length).length) (opened s (ps ++ rest)) = _ := (run_add hw).trans (by
      refine Eq.trans ?_ hrd
      simp [opened])
    rw [run_succ hs, show k = f.out.length + (ps.drop f.out.length).length by simp; omega, hall]
    simp [opened, hr, Nat.add_comm 1, Nat.add_assoc, hl', show f.out.length + (k - f.out.length) = k by omega, e1]
    omega

/-! ## What every step does to the schedule, and fairness along a run -/

/-- Every step passes one sample. -/
theorem step_env {s t : State} (h : step s = .next t) : t.env = s.env.tail := by
  rcases step_cases h with ⟨i, u, hu, rfl⟩ | ⟨_, _, rfl⟩ | ⟨_, _, rfl⟩ | ⟨_, _, rfl⟩ | ⟨_, _, f, _, hi, rfl⟩
  · have hx := exec_executed i (takePort s)
    rw [hu] at hx
    cases hx <;> rfl
  · rcases hostMove_cases Config.catalog s.pins s with ⟨_, _, _, _, _, _, e⟩ | ⟨_, _, _, _, _, _, _, _, _, e⟩ <;> rw [e] <;> rfl
  · rcases preWaitMove_cases s.pins s with ⟨_, e⟩ | ⟨_, e⟩ <;> rw [e] <;> rfl
  · rcases postWaitMove_cases s.pins s with ⟨_, e⟩ | ⟨_, e⟩ <;> rw [e] <;> rfl
  · rcases busEvent_cases f s.pins s hi with ⟨_, _, e⟩ | ⟨_, _, _, _, e⟩ | ⟨_, _, _, e⟩ | ⟨_, _, e⟩ <;> rw [e] <;> rfl

/-- A run passes one sample for each of its steps. -/
theorem run_env {n : Nat} {s t : State} (h : run n s = .next t) : t.env = s.env.drop n := by
  induction n generalizing s with
  | zero =>
    obtain rfl : s = t := by simpa [run_zero] using h
    rfl
  | succ n ih =>
    rw [run_step] at h
    cases hs : step s with
    | next u =>
      rw [hs] at h
      rw [ih h, step_env hs, List.drop_tail]
    | fault r => simp [hs] at h
    | refused r => simp [hs] at h

/-- The fairness assumption holds along a run (R19). -/
theorem BusyFair.of_run {n : Nat} {s t : State} (h : BusyFair s) (hr : run n s = .next t) : BusyFair t :=
  fun m u hu hw => h (n + m) u ((run_add hr).trans hu) hw

/-- The premise on the interrupt line holds along a run (R22). -/
theorem IrqFair.of_run {n : Nat} {s t : State} (h : IrqFair s) (hr : run n s = .next t) : IrqFair t :=
  fun m u todo got hu hp hq => h (n + m) u todo got ((run_add hr).trans hu) hp hq

end Sys2Proof.Machine
end

