-- ==== Sys2Proof/Tests/Slice0.lean ====
section
/-! SUPPORT. Tests. Expected values come from 95_test_vectors.md (named S, T, H, F, K, P as there) or from the
frame formats of 30_encoding.md; where a byte is a catalog value, from `Config.familyCatalog`, the values
93_implementation_defined.md part 2 recalls. Then a witness for the hypotheses of each obligation that has any. -/

namespace Sys2Proof.Machine.Tests

/-! ## Helpers -/

/-- The next state, if there is one. -/
def next? : Host.Outcome State Fault Refusal → Option State
  | .next s => some s
  | .fault _ => none
  | .refused _ => none

/-- The refusal, if there is one. -/
def refusal? : Host.Outcome State Fault Refusal → Option Refusal
  | .next _ => none
  | .fault _ => none
  | .refused r => some r

/-- The instruction a request decodes to, if any. -/
def decoded (r : Request) : Option Instr :=
  match decode r with
  | .ok i => some i
  | .error _ => none

/-- Why a request is none. -/
def rejected (r : Request) : Option DecodeError :=
  match decode r with
  | .ok _ => none
  | .error e => some e

/-- Nothing stands in the way: busy low, the interrupt line high, the bus carries, the delay has elapsed. -/
def good : Pins := ⟨.low, .high, none, 0x5A, true⟩
/-- Busy is high. -/
def busyHigh : Pins := ⟨.high, .low, none, 0x5A, false⟩
/-- The bus fails. -/
def failing : Pins := ⟨.low, .low, some ⟨7⟩, 0x5A, false⟩

/-- Reset, with a schedule. -/
def resetWith (ps : List Pins) : State := { State.reset with env := ps }

/-- An accepted operation, waiting for busy low. -/
def waiting (d : FramedOp) (ps : List Pins) : State := taken (Latches.hold d) (resetWith ps)

/-- An operation with `k` frame bytes moved, every byte read having been 0x5A. -/
def moving (d : FramedOp) (k : Nat) (ps : List Pins) : State :=
  { waiting d ps with
    phase := .xfer, cs := .asserted, idx := k, mosi := (frameOf d).out.take k
    miso := List.replicate (k - (frameOf d).out.length) 0x5A
    rbuf := List.replicate (k - (frameOf d).out.length) 0x5A
    history := [.busyLow .pre] }

/-- A whole transfer released, waiting for busy low. -/
def closing (d : FramedOp) (ps : List Pins) : State :=
  { waiting d ps with
    phase := .postWait, idx := (frameOf d).out.length + (frameOf d).reads
    rbuf := List.replicate (frameOf d).reads 0x5A
    history := [.busyLow .pre, .txn ⟨(frameOf d).out, (frameOf d).reads, List.replicate (frameOf d).reads 0x5A, .done, (frameOf d).header.length⟩] }

/-- A host sequence at a step, the engine IDLE. -/
def sequenced (run : SeqRun) (ps : List Pins) : State := { resetWith ps with seq := some run }

/-- The frame accepted by an instruction from reset. -/
def acceptedFrame (i : Instr) : Option Frame := (next? (exec i State.reset)).bind fun t => t.latches.frame

/-- The value a codec answers from reset. -/
def answered (i : Instr) : Option CodecValue := (next? (exec i State.reset)).bind fun t => t.codec

/-- The frames of the operations a sequence lists, those of the computed clear left out. -/
def listedFrames (steps : List SeqStep) : List Frame :=
  steps.filterMap fun st => match st with
    | .op d _ => some (frameOf d)
    | _ => none

/-- SF12, 200 kHz, CR4/5. -/
def mod12 : ModulationParams := ⟨.sf12, .khz200, .cr45⟩
/-- The packet of S4. -/
def pktS4 : PacketParams := ⟨8, 0, .explicit, 32, .enabled, .normal, [0x12, 0xAD]⟩
/-- A modem of the two. -/
def modemS : ModemParams := ⟨⟨0xB9, 0x00, 0x00⟩, ⟨0x1F, ⟨2⟩⟩, mod12, pktS4⟩

/-- The register write of S5. -/
def wS5 : FramedOp := .regw 0x0153 [0xA9, 0xB7]
/-- The register read of S6. -/
def rS6 : FramedOp := .regr 0x0153 2

/-! ## Well-formedness: an ill-formed term for each check -/

theorem test_illformed_bandwidth : (Instr.modPack .sf5 (.unlisted 0) .cr45).wellFormed = false := by decide
theorem test_illformed_coding_rate : (Instr.modField .sf5 .khz200 (.unlisted 0)).wellFormed = false := by decide
theorem test_illformed_setmod : (Instr.setmod .sf5 (.unlisted 0) (.unlisted 1)).wellFormed = false := by decide
theorem test_illformed_header : (Instr.pktPack 8 0 (.unlisted 0) 32 .enabled .normal).wellFormed = false := by decide
theorem test_illformed_crc : (Instr.pktField 8 0 .explicit 32 (.unlisted 0) .normal).wellFormed = false := by decide
theorem test_illformed_iq : (Instr.setpkt { pktS4 with iq := .unlisted 0 }).wellFormed = false := by decide
theorem test_illformed_flag : (Instr.irqOr [.txDone, .unlisted 3]).wellFormed = false := by decide
theorem test_illformed_modem : (Instr.configure { modemS with mod := ⟨.sf5, .unlisted 0, .cr45⟩ }).wellFormed = false := by
  decide

/-! ## Decoding: words written out from 30_encoding.md, and from the request form of log entry 1 -/

theorem test_decode_cmd : decoded ⟨.frame, [0x86, 0xB9, 0x00, 0x00], 0⟩ = some (.cmd 0x86 [0xB9, 0x00, 0x00] 0) := by decide
theorem test_decode_regw : decoded ⟨.frame, [0x18, 0x01, 0x53, 0xA9, 0xB7], 0⟩ = some (.regw 0x0153 [0xA9, 0xB7]) := by
  decide
theorem test_decode_regr : decoded ⟨.frame, [0x19, 0xAB, 0xCD, 0x00], 1⟩ = some (.regr 0xABCD 1) := by decide
theorem test_decode_bufw : decoded ⟨.frame, [0x1A, 0xFF, 0x01, 0x02], 0⟩ = some (.bufw 0xFF [0x01, 0x02]) := by decide
theorem test_decode_bufr : decoded ⟨.frame, [0x1B, 0x10], 3⟩ = some (.bufr 0x10 3) := by decide
theorem test_decode_colliding_command :
    decoded ⟨.command, [0x18, 0x01, 0x53], 0⟩ = some (.cmd 0x18 [0x01, 0x53] 0) := by decide
theorem test_decode_flush : decoded ⟨.operation .flush, [], 0⟩ = some .flush := by decide
theorem test_decode_freqHz : decoded ⟨.operation .freqHz, [0x8F, 0x59, 0x63, 0x40], 0⟩ = some (.freqHz 2405000000#32) := by
  decide
theorem test_decode_freqRaw : decoded ⟨.operation .freqRaw, [0x12, 0x34, 0x56], 0⟩ = some (.freqRaw 0x12 0x34 0x56) := by
  decide
theorem test_decode_freqBytes :
    decoded ⟨.operation .freqBytes, [0x12, 0x34, 0x56], 0⟩ = some (.freqBytes ⟨0x12, 0x34, 0x56⟩) := by decide
theorem test_decode_modPack : decoded ⟨.operation .modPack, [7, 0, 0], 0⟩ = some (.modPack .sf12 .khz200 .cr45) := by decide
theorem test_decode_modField :
    decoded ⟨.operation .modField, [0, 2, 5, 3], 0⟩ = some (.modField .sf7 (.unlisted 5) (.unlisted 3)) := by decide
theorem test_decode_modFec : decoded ⟨.operation .modFec, [4], 0⟩ = some (.modFec .sf9) := by decide
theorem test_decode_pktPre : decoded ⟨.operation .pktPre, [3, 2], 0⟩ = some (.pktPre 3 2) := by decide
theorem test_decode_pktPack :
    decoded ⟨.operation .pktPack, [8, 0, 0, 32, 0, 0], 0⟩ = some (.pktPack 8 0 .explicit 32 .enabled .normal) := by decide
theorem test_decode_pktField :
    decoded ⟨.operation .pktField, [8, 0, 1, 32, 2, 3], 0⟩ =
      some (.pktField 8 0 (.unlisted 1) 32 (.unlisted 2) (.unlisted 3)) := by decide
theorem test_decode_txpMake : decoded ⟨.operation .txpMake, [0x1F, 2], 0⟩ = some (.txpMake 0x1F ⟨2⟩) := by decide
theorem test_decode_irqOr :
    decoded ⟨.operation .irqOr, [0, 3, 2, 9], 0⟩ = some (.irqOr [.txDone, .rxTxTimeout, .crcError, .unlisted 9]) := by decide
theorem test_decode_statMode : decoded ⟨.operation .statMode, [0x42], 0⟩ = some (.statMode 0x42) := by decide
theorem test_decode_calAll : decoded ⟨.operation .calAll, [], 0⟩ = some .calAll := by decide
theorem test_decode_setfreq : decoded ⟨.operation .setfreq, [0xB9, 0, 0], 0⟩ = some (.setfreq ⟨0xB9, 0, 0⟩) := by decide
theorem test_decode_setmod : decoded ⟨.operation .setmod, [7, 0, 0], 0⟩ = some (.setmod .sf12 .khz200 .cr45) := by decide
theorem test_decode_setpkt :
    decoded ⟨.operation .setpkt, [8, 0, 0, 32, 0, 0, 0x12, 0xAD], 0⟩ = some (.setpkt pktS4) := by decide
theorem test_decode_calibrate : decoded ⟨.operation .calibrate, [], 0⟩ = some .calibrate := by decide
theorem test_decode_configure :
    decoded ⟨.operation .configure, [0xB9, 0, 0, 0x1F, 2, 7, 0, 0, 8, 0, 0, 32, 0, 0, 0x12, 0xAD], 0⟩ =
      some (.configure modemS) := by decide
theorem test_decode_send : decoded ⟨.operation .send, [0x48, 0x69], 0⟩ = some (.send [0x48, 0x69]) := by decide

/-- The shortest frame has a byte (R50), headers are whole and the filler is 0x00 (R52, R53). -/
theorem test_reject_frames :
    rejected ⟨.frame, [], 0⟩ = some .emptyFrame ∧ rejected ⟨.frame, [0x18, 0x01], 0⟩ = some .shortHeader ∧
    rejected ⟨.frame, [0x19, 0x01, 0x53, 0xFF], 0⟩ = some .fillerNotZero ∧
    rejected ⟨.frame, [0x1B, 0x00, 0x00], 1⟩ = some .bodyAfterReadHeader ∧
    rejected ⟨.frame, [0x1A, 0x00], 1⟩ = some .readCountNotZero := by decide
theorem test_reject_operands :
    rejected ⟨.operation .modField, [1, 0, 0, 0], 0⟩ = some .padNotZero ∧
    rejected ⟨.operation .modFec, [8], 0⟩ = some .noSuchMember ∧
    rejected ⟨.operation .pktPre, [1], 0⟩ = some .operandCount := by decide

/-! ## Words of the opcode table -/

theorem test_table_frames :
    decodeTableWord 8 0x00 = some (.cmd 0x00 [] 0) ∧ decodeTableWord 8 0x18 = some (.regw 0 []) ∧
    decodeTableWord 8 0x19 = some (.regr 0 0) ∧ decodeTableWord 8 0x1A = some (.bufw 0 []) ∧
    decodeTableWord 8 0x1B = some (.bufr 0 0) := by decide
theorem test_table_modField : decodeTableWord 32 0x00070000 = some (.modField .sf12 .khz200 .cr45) := by decide
theorem test_table_pktField :
    decodeTableWord 64 0x0023000500000000 = some (.pktField 3 2 .explicit 5 .enabled .normal) := by decide
theorem test_table_step :
    (next? (step (State.reset.withFetchWord 8 0x18))).map (·.latches.frame) = some (some ⟨[0x18, 0, 0], [], 0⟩) := by decide

/-! ## Transport -/

/-- T5. -/
theorem test_cmd_accepts : acceptedFrame (.cmd 0x18 [0x01, 0x53] 0) = some ⟨[0x18], [0x01, 0x53], 0⟩ := by decide
/-- T8: top address. -/
theorem test_regw_accepts : acceptedFrame (.regw 0xFFFF [0x00]) = some ⟨[0x18, 0xFF, 0xFF], [0x00], 0⟩ := by decide
/-- T12. -/
theorem test_regr_accepts : acceptedFrame (.regr 0xABCD 1) = some ⟨[0x19, 0xAB, 0xCD, 0x00], [], 1⟩ := by decide
/-- T14. -/
theorem test_bufw_accepts : acceptedFrame (.bufw 0xFF [0x01, 0x02]) = some ⟨[0x1A, 0xFF], [0x01, 0x02], 0⟩ := by decide
/-- T16. -/
theorem test_bufr_accepts : acceptedFrame (.bufr 0x10 3) = some ⟨[0x1B, 0x10], [], 3⟩ := by decide
/-- T18, H11. -/
theorem test_flush_answers :
    (next? (exec .flush (resetWith [busyHigh]))).map (fun t => (t.rsp, t.history, t.phase)) = some (some (.ok []), [], .idle) := by
  decide
/-- H2: busy high. -/
theorem test_prewait_holds :
    (next? (step (waiting wS5 [busyHigh]))).map (fun t => (t.phase, t.cs, t.history)) = some (.preWait, .released, []) := by
  decide
/-- H5: the bus fails at selection. -/
theorem test_bus_fails_at_selection :
    (next? (step (moving wS5 0 [failing]))).map (fun t => (t.history, t.rsp, t.phase, t.cs)) =
      some ([.busyLow .pre, .txn ⟨[], 0, [], .failed ⟨7⟩ 0, 3⟩], some (.err ⟨7⟩), .idle, .released) := by decide
/-- H7: the bus fails at release. -/
theorem test_bus_fails_at_release :
    (next? (step (moving wS5 5 [failing]))).map (fun t => (t.history, t.rsp, t.phase, t.cs)) =
      some ([.busyLow .pre, .txn ⟨[0x18, 0x01, 0x53, 0xA9, 0xB7], 0, [], .failed ⟨7⟩ 5, 3⟩], some (.err ⟨7⟩), .idle,
        .released) := by decide
/-- H8: the byte read before the failure is not returned. -/
theorem test_bus_fails_after_one_read :
    (next? (step (moving rS6 5 [failing]))).map (fun t => (t.history, t.rsp, t.rbuf)) =
      some ([.busyLow .pre, .txn ⟨[0x19, 0x01, 0x53, 0x00], 2, [0x5A], .failed ⟨7⟩ 5, 4⟩], some (.err ⟨7⟩), []) := by decide
/-- H4: busy low after release ends the operation. -/
theorem test_postwait_answers :
    (next? (step (closing rS6 [good]))).map (fun t => (t.rsp, t.phase)) = some (some (.ok [0x5A, 0x5A]), .idle) := by decide
/-- H9. -/
theorem test_second_request_refused :
    refusal? (step { moving wS5 1 [good] with port := some ⟨.frame, [0xC0], 0⟩ }) = some .requestInFlight := by decide

/-! ## Codecs -/

/-- F5: floor, not rounding. -/
theorem test_freqHz_floors : answered (.freqHz 396) = some (.freq ⟨0x00, 0x00, 0x01⟩) := by decide
/-- F19: the low 24 bits. -/
theorem test_freqHz_truncates : answered (.freqHz 4294967295) = some (.freq ⟨0x4A, 0x61, 0xD1⟩) := by decide
/-- F20. -/
theorem test_freqRaw : answered (.freqRaw 0x12 0x34 0x56) = some (.freq ⟨0x12, 0x34, 0x56⟩) := by decide
/-- S2. -/
theorem test_freqBytes : freqAsBytes (freqOfHz 2405000000) = [0xB9, 0x00, 0x00] := by decide
/-- S3. -/
theorem test_modPack : answered (.modPack .sf12 .khz200 .cr45) = some (.bytes [0xC0, 0x34, 0x01]) := by decide
/-- K2. -/
theorem test_modField : answered (.modField .sf12 .khz200 .cr45) = some (.word32 0x00C03401) := by decide
/-- K3 to K5, with the values of G6. -/
theorem test_modFec :
    [SpreadingFactor.sf5, .sf6, .sf7, .sf8, .sf9, .sf10, .sf11, .sf12].map (modFec Config.familyCatalog) =
      [0x1E, 0x1E, 0x37, 0x37, 0x32, 0x32, 0x32, 0x32] := by decide
/-- K11. -/
theorem test_pktPre_masks_mantissa : answered (.pktPre 0x1F 0) = some (.byte 0x0F) := by decide
/-- K12. -/
theorem test_pktPre_drops_exponent_bits : answered (.pktPre 1 0x12) = some (.byte 0x21) := by decide
/-- K15. -/
theorem test_pktPack :
    answered (.pktPack 12 3 .explicit 255 .enabled .normal) = some (.bytes [0x3C, 0x00, 0xFF, 0x20, 0x40, 0x00, 0x00]) := by
  decide
/-- K14. -/
theorem test_pktField : answered (.pktField 8 0 .explicit 32 .enabled .normal) = some (.word64 0x0008002020400000) := by decide
/-- The pair keeps the power byte as given (R138). -/
theorem test_txpMake : answered (.txpMake 0xEE ⟨2⟩) = some (.txp 0xEE (Config.catalog.rampCode ⟨2⟩)) := rfl
/-- K18. -/
theorem test_irqOr_empty : answered (.irqOr []) = some (.word16 0x0000) := by decide
/-- K19, with the values of G10. -/
theorem test_irqOr_three : irqOr Config.familyCatalog [.txDone, .rxTxTimeout, .crcError] = 0x4041 := by decide
/-- A named mode, and K22: a code that is no member's. -/
theorem test_statMode :
    statMode Config.familyCatalog 0xCF = .known .tx ∧ statMode Config.familyCatalog 0xE5 = .unknown 7 := by decide
/-- K21. -/
theorem test_calAll : calAll Config.familyCatalog = 0x3F := by decide

/-! ## Sequences -/

/-- P2, with opcode 0x86. -/
theorem test_setfreq : listedFrames (setfreqSteps Config.familyCatalog ⟨0xB9, 0, 0⟩) = [⟨[0x86], [0xB9, 0, 0], 0⟩] := by decide
/-- P3, unpadded and padded. -/
theorem test_setmod :
    listedFrames (setmodSteps Config.familyCatalog mod12) =
      [⟨[0x8B], [0xC0, 0x34, 0x01], 0⟩, ⟨[0x18, 0x09, 0x25], [0x32], 0⟩, ⟨[0x18, 0x09, 0x3C], [0x01], 0⟩] ∧
    modInput { Config.familyCatalog with padOnWire := true } mod12 = [0x00, 0xC0, 0x34, 0x01] := by decide
/-- S4 as a command. -/
theorem test_setpkt :
    listedFrames (setpktSteps Config.familyCatalog pktS4) = [⟨[0x8C], [0x08, 0x00, 0x20, 0x20, 0x40, 0x00, 0x00], 0⟩] := by
  decide
/-- S7. -/
theorem test_calibrate : listedFrames (calibrateSteps Config.familyCatalog) = [⟨[0x89], [0x3F], 0⟩] := by decide
/-- The order of configure (R150): the first bytes of its eight frames. -/
theorem test_configure_order :
    (listedFrames (configureSteps Config.familyCatalog modemS)).map (fun f => f.out.head?) =
      [some 0x80, some 0x86, some 0x8A, some 0x8B, some 0x18, some 0x18, some 0x8C, some 0x8E] := by decide
/-- P4. -/
theorem test_send :
    listedFrames (sendSteps Config.familyCatalog [0x48, 0x69]) =
      [⟨[0x8F], [0x00, 0x00], 0⟩, ⟨[0x1A, 0x00], [0x48, 0x69], 0⟩, ⟨[0xC0], [], 1⟩,
       ⟨[0x8D], [0x40, 0x41, 0x40, 0x41, 0x00, 0x00, 0x00, 0x00], 0⟩, ⟨[0x83], [0x00, 0x00, 0x00], 0⟩, ⟨[0xC0], [], 1⟩,
       ⟨[0x15], [], 2⟩] := by decide
/-- P5: the sequence returns the error and issues nothing more. -/
theorem test_sequence_aborts :
    (next? (step { sequenced ⟨[.waitIrq], some .ignore, Gathered.empty⟩ [good] with rsp := some (.err ⟨7⟩) })).map
      (fun t => (t.seq, t.seqResult, t.phase, t.rsp)) = some (none, some (.busError ⟨7⟩), .idle, none) := by decide
/-- R11: an error of the host's own request is not remembered once taken, and is taken before the next request. -/
theorem test_error_taken :
    (next? (step { resetWith [good] with rsp := some (.err ⟨7⟩), program := [.request ⟨.frame, [0xC0], 1⟩] })).map
      (fun t => (t.rsp, t.callResult, t.port)) = some (none, some (.err ⟨7⟩), none) := by decide

/-! ## Witnesses: a concrete state and operands that meet each obligation's hypotheses -/

theorem good_cooperative (n : Nat) : ∀ p ∈ List.replicate n good, Cooperative p := by
  intro p hp
  rw [List.eq_of_mem_replicate hp]
  exact ⟨rfl, rfl⟩

/-- A transfer with the last byte moved and the release to come meets the invariant. -/
theorem moving_inv : EngineInv (moving wS5 5 [good]) where
  chipSelect := by decide
  response := by decide
  latched := fun _ => ⟨_, rfl⟩
  unread := by decide
  position := by
    intro f _ hf
    obtain rfl : frameOf wS5 = f := Option.some.inj hf
    decide
  readWhole := by
    intro f h
    exact absurd h (by decide)
  trace := by decide
  records := by
    intro e he
    obtain rfl : e = .busyLow .pre := by simpa [moving] using he
    trivial

theorem witness_StepKeepsInvariant : ∃ t, EngineInv (moving wS5 5 [good]) ∧ step (moving wS5 5 [good]) = .next t :=
  ⟨_, moving_inv, rfl⟩
theorem witness_InvariantExcludesFaults : EngineInv (moving wS5 5 [good]) := moving_inv
theorem witness_ChipSelectExactlyInTransfer :
    ∃ t, ((moving rS6 4 [good]).cs = .asserted ↔ (moving rS6 4 [good]).phase = .xfer) ∧ step (moving rS6 4 [good]) = .next t :=
  ⟨_, by decide, rfl⟩
theorem witness_DecodeOfEncode : WellFormed (.irqOr [.rxDone, .unlisted 4, .unlisted 255]) := by decide
theorem witness_DecodedIsWellFormed : decode ⟨.operation .modPack, [0, 1, 255], 0⟩ = .ok (.modPack .sf5 (.unlisted 1) (.unlisted 255)) :=
  rfl
/-- Register write and register read at 0x0153, and buffer write and buffer read at 0xFF. -/
theorem witness_CommandMayLookLikeRegisterWrite :
    State.reset.phase = .idle ∧
    ∀ c ∈ [FramedOp.cmd 0x18 [0x01, 0x53] 0, .cmd 0x19 [0x01, 0x53, 0x00] 2, .cmd 0x1A [0xFF] 0, .cmd 0x1B [0xFF] 2],
      ∃ d, (c, d) ∈ [(FramedOp.cmd 0x18 [0x01, 0x53] 0, FramedOp.regw (0x01#8 ++ 0x53#8) []),
        (.cmd 0x19 [0x01, 0x53, 0x00] 2, .regr (0x01#8 ++ 0x53#8) 2), (.cmd 0x1A [0xFF] 0, .bufw 0xFF []),
        (.cmd 0x1B [0xFF] 2, .bufr 0xFF 2)] := by
  refine ⟨rfl, ?_⟩
  simp
theorem witness_ObservationIgnoresSplit :
    EngineInv (moving wS5 5 [good]) ∧ (moving wS5 5 [good]).phase = .xfer ∧ (moving wS5 5 [good]).port = none ∧
      (moving wS5 5 [good]).latches.frame = some (frameOf wS5) ∧ (moving wS5 5 [good]).pins.bus = none ∧
      (moving wS5 5 [good]).idx = (frameOf wS5).out.length + (frameOf wS5).reads :=
  ⟨moving_inv, rfl, rfl, rfl, rfl, rfl⟩
/-- Both ways of the first hypothesis: no sequence in progress, and a codec inside a sequence; then a host whose next
item is a request, with and without a response to take first. -/
theorem witness_StepRunsDecodedRequest :
    (let s : State := { State.reset with port := some ⟨.frame, [0xC0], 1⟩ }
     s.port = some ⟨.frame, [0xC0], 1⟩ ∧ decode ⟨.frame, [0xC0], 1⟩ = .ok (.cmd 0xC0 [] 1) ∧ s.seq = none) ∧
    (let s : State := { sequenced ⟨[.waitIrq], none, Gathered.empty⟩ [] with port := some ⟨.operation .calAll, [], 0⟩ }
     s.port = some ⟨.operation .calAll, [], 0⟩ ∧ decode ⟨.operation .calAll, [], 0⟩ = .ok .calAll ∧ isCodec .calAll = true) ∧
    (let s : State := { resetWith [good] with program := [.request ⟨.frame, [0xC0], 1⟩, .resetRadio] }
     s.phase = .idle ∧ s.port = none ∧ s.seq = none ∧ s.rsp = none ∧
       s.program = .request ⟨.frame, [0xC0], 1⟩ :: [.resetRadio]) ∧
    (let s : State := { resetWith [good] with program := [.request ⟨.frame, [0xC0], 1⟩], rsp := some (.err ⟨7⟩) }
     s.phase = .idle ∧ s.port = none ∧ s.seq = none ∧ s.rsp = some (.err ⟨7⟩)) :=
  ⟨⟨rfl, rfl, rfl⟩, ⟨rfl, rfl, rfl⟩, by decide, by decide⟩
theorem witness_RequestInFlightRefused :
    isCodec (.setfreq ⟨0, 0, 0⟩) = false ∧ isCodec .flush = false ∧ (waiting wS5 []).phase ≠ .idle := by decide
theorem witness_SecondCallerRefused :
    ∃ (s : State) (q : SeqRun), s.port = some ⟨.operation .flush, [], 0⟩ ∧ decode ⟨.operation .flush, [], 0⟩ = .ok .flush ∧
      isCodec .flush = false ∧ s.seq = some q :=
  ⟨{ sequenced ⟨[.waitIrq], none, Gathered.empty⟩ [] with port := some ⟨.operation .flush, [], 0⟩ }, _, rfl, rfl, rfl, rfl⟩
theorem witness_CodecsAnswerAtOnce : isCodec (.freqHz 0) = true ∧ isCodec .calAll = true := ⟨rfl, rfl⟩
/-- One state in each of the three phases of an operation in flight. -/
theorem witness_EngineIgnoresHost :
    (∃ t, (waiting rS6 [good]).phase ≠ .idle ∧ (waiting rS6 [good]).port = none ∧ step (waiting rS6 [good]) = .next t) ∧
    (∃ t, (moving rS6 6 [failing]).phase ≠ .idle ∧ (moving rS6 6 [failing]).port = none ∧ step (moving rS6 6 [failing]) = .next t) ∧
    (∃ t, (closing rS6 [good]).phase ≠ .idle ∧ (closing rS6 [good]).port = none ∧ step (closing rS6 [good]) = .next t) :=
  ⟨⟨_, by decide, rfl, rfl⟩, ⟨_, by decide, rfl, rfl⟩, ⟨_, by decide, rfl, rfl⟩⟩
theorem witness_PreWaitObservesLowAndSelects :
    ((waiting wS5 [good]).phase = .preWait ∧ (waiting wS5 [good]).port = none ∧ (waiting wS5 [good]).pins.busy = .low) ∧
    ((waiting wS5 [busyHigh]).phase = .preWait ∧ (waiting wS5 [busyHigh]).port = none ∧ (waiting wS5 [busyHigh]).pins.busy = .high) := by
  decide
/-- The first and the last byte of the written part. -/
theorem witness_TransferWritesFrameByte :
    ∀ k ∈ [0, 4], (moving wS5 k [good]).phase = .xfer ∧ (moving wS5 k [good]).port = none ∧
      (moving wS5 k [good]).latches.frame = some (frameOf wS5) ∧ (moving wS5 k [good]).pins.bus = none ∧
      ∃ b, (frameOf wS5).out[(moving wS5 k [good]).idx]? = some b := by
  intro k hk
  rcases List.mem_pair.mp hk with rfl | rfl <;> exact ⟨rfl, rfl, rfl, rfl, _, rfl⟩
/-- The first and the last byte of the read part. -/
theorem witness_TransferReadsOracleByte :
    ∀ k ∈ [4, 5], (moving rS6 k [good]).phase = .xfer ∧ (moving rS6 k [good]).port = none ∧
      (moving rS6 k [good]).latches.frame = some (frameOf rS6) ∧ (moving rS6 k [good]).pins.bus = none ∧
      (frameOf rS6).out.length ≤ (moving rS6 k [good]).idx ∧
      (moving rS6 k [good]).idx < (frameOf rS6).out.length + (frameOf rS6).reads := by decide
/-- Selection, the first read byte, and the release. -/
theorem witness_BusFailureRaisesBusError :
    ∀ k ∈ [0, 4, 6], (moving rS6 k [failing]).phase = .xfer ∧ (moving rS6 k [failing]).port = none ∧
      (moving rS6 k [failing]).latches.frame = some (frameOf rS6) ∧
      (moving rS6 k [failing]).idx ≤ (frameOf rS6).out.length + (frameOf rS6).reads ∧
      (moving rS6 k [failing]).pins.bus = some ⟨7⟩ := by decide
theorem witness_ReleaseClosesTransaction :
    (moving rS6 6 [good]).phase = .xfer ∧ (moving rS6 6 [good]).port = none ∧
      (moving rS6 6 [good]).latches.frame = some (frameOf rS6) ∧ (moving rS6 6 [good]).pins.bus = none ∧
      (moving rS6 6 [good]).idx = (frameOf rS6).out.length + (frameOf rS6).reads := by decide
theorem witness_PostWaitAnswers :
    ((closing rS6 [good]).phase = .postWait ∧ (closing rS6 [good]).port = none ∧ (closing rS6 [good]).pins.busy = .low) ∧
    ((closing rS6 [busyHigh]).phase = .postWait ∧ (closing rS6 [busyHigh]).port = none ∧ (closing rS6 [busyHigh]).pins.busy = .high) := by
  decide
theorem witness_WaitStepsGoOrHold :
    ((waiting rS6 [busyHigh]).phase = .preWait ∧ (waiting rS6 [busyHigh]).port = none) ∧
    ((closing rS6 [good]).phase = .postWait ∧ (closing rS6 [good]).port = none) := by decide
theorem witness_BusyHighHoldsForEver :
    (waiting wS5 [busyHigh, busyHigh, good]).phase = .preWait ∧ (waiting wS5 [busyHigh, busyHigh, good]).port = none ∧
      (waiting wS5 [busyHigh, busyHigh, good]).env = [busyHigh, busyHigh] ++ [good] ∧
      ∀ p ∈ [busyHigh, busyHigh], p.busy = .high := by decide
theorem witness_BusErrorOnlyFromTransfer :
    ∃ t, step (moving wS5 0 [failing]) = .next t ∧ t.rsp = some (.err ⟨7⟩) ∧ (moving wS5 0 [failing]).rsp ≠ some (.err ⟨7⟩) :=
  ⟨_, rfl, rfl, by decide⟩

/-- An idle machine with nothing at the port, whose schedule is that of an operation of frame `f`. -/
def CarriesOne (f : Frame) (s : State) : Prop :=
  s.phase = .idle ∧ s.port = none ∧
    ∃ ps, s.env = ps ++ [] ∧ ps.length = frameTime f ∧ ∀ p ∈ ps, Cooperative p

theorem resetWith_carries_one (f : Frame) : CarriesOne f (resetWith (List.replicate (frameTime f) good)) :=
  ⟨rfl, rfl, _, (List.append_nil _).symm, List.length_replicate, good_cooperative _⟩

/-- T4. -/
theorem witness_CmdCompletes : CarriesOne ⟨[0x15], [], 2⟩ (resetWith (List.replicate 6 good)) := resetWith_carries_one _
/-- T6. -/
theorem witness_RegwCompletes : CarriesOne ⟨[0x18, 0x01, 0x53], [0xA9, 0xB7], 0⟩ (resetWith (List.replicate 8 good)) :=
  resetWith_carries_one _
/-- T10. -/
theorem witness_RegrCompletes : CarriesOne ⟨[0x19, 0x01, 0x53, 0x00], [], 2⟩ (resetWith (List.replicate 9 good)) :=
  resetWith_carries_one _
/-- T15. -/
theorem witness_BufwCompletes : CarriesOne ⟨[0x1A, 0x00], [], 0⟩ (resetWith (List.replicate 5 good)) :=
  resetWith_carries_one _
/-- T16. -/
theorem witness_BufrCompletes : CarriesOne ⟨[0x1B, 0x10], [], 3⟩ (resetWith (List.replicate 8 good)) :=
  resetWith_carries_one _
theorem witness_FlushAnswersAtOnce : State.reset.phase = .idle := rfl
/-- At selection and at release. -/
theorem witness_FailedOperationLeavesPartialRecord :
    ∀ k ∈ [0, 6], ∃ s : State, k ≤ (frameOf rS6).out.length + (frameOf rS6).reads ∧ s.port = none ∧
      s.env = List.replicate (k + 1) good ++ failing :: [good] ∧ (List.replicate (k + 1) good).length = k + 1 ∧
      (∀ q ∈ List.replicate (k + 1) good, Cooperative q) ∧ failing.bus = some ⟨7⟩ :=
  fun k hk => ⟨resetWith (List.replicate (k + 1) good ++ failing :: [good]), by revert k; decide, rfl, rfl,
    List.length_replicate, good_cooperative _, rfl⟩
/-- The greatest 32-bit frequency one period below the top, and the last frequency before truncation. -/
theorem witness_FreqArithmeticLaws :
    (966967295#32).toNat + 3328000000 < 2 ^ 32 ∧ (0#32).toNat + 3328000000 < 2 ^ 32 ∧
      (3327999999 : Nat) ≤ 3327999999 ∧ (3327999999 : Nat) < 3328000000 := by decide

/-- An idle machine with nothing at the port, whose schedule is that of a sequence of the frames `fs`. -/
def Carries (fs : List Frame) (s : State) : Prop :=
  s.phase = .idle ∧ s.seq = none ∧ s.port = none ∧
    ∃ ps, s.env = ps ++ [] ∧ ps.length = framesTime fs ∧ ∀ p ∈ ps, Cooperative p

theorem resetWith_carries (fs : List Frame) :
    Carries fs (resetWith (List.replicate (framesTime fs) good)) :=
  ⟨rfl, rfl, rfl, _, (List.append_nil _).symm, List.length_replicate, good_cooperative _⟩

theorem witness_SetfreqRuns :
    Carries [⟨[Config.catalog.opcSetRfFrequency], [0xB9, 0x00, 0x00], 0⟩] (resetWith (List.replicate 9 good)) :=
  resetWith_carries _
/-- The operands of P3; the schedule's length depends on the configured correction. -/
theorem witness_SetmodRuns :
    ∃ s, Carries
      [⟨[Config.catalog.opcSetModulationParams], modInput Config.catalog mod12, 0⟩,
       ⟨0x18 :: be16 Config.catalog.fecRegAddr, [modFec Config.catalog .sf12], 0⟩,
       ⟨0x18 :: be16 Config.catalog.fecCorrAddr, Config.catalog.fecCorrValue, 0⟩] s := ⟨_, resetWith_carries _⟩
theorem witness_SetpktRuns :
    ∃ s, Carries [⟨[Config.catalog.opcSetPacketParams], pktInput Config.catalog pktS4, 0⟩] s := ⟨_, resetWith_carries _⟩
theorem witness_CalibrateRuns :
    Carries [⟨[Config.catalog.opcCalibrate], [calAll Config.catalog], 0⟩] (resetWith (List.replicate 7 good)) :=
  resetWith_carries _
theorem witness_ConfigureRuns :
    ∃ s, Carries
      [⟨[Config.catalog.opcSetStandby], [Config.catalog.rcClockCode], 0⟩,
       ⟨[Config.catalog.opcSetRfFrequency], [0xB9, 0x00, 0x00], 0⟩,
       ⟨[Config.catalog.opcSetPacketType], [Config.catalog.loraCode], 0⟩,
       ⟨[Config.catalog.opcSetModulationParams], modInput Config.catalog modemS.mod, 0⟩,
       ⟨0x18 :: be16 Config.catalog.fecRegAddr, [modFec Config.catalog modemS.mod.sf], 0⟩,
       ⟨0x18 :: be16 Config.catalog.fecCorrAddr, Config.catalog.fecCorrValue, 0⟩,
       ⟨[Config.catalog.opcSetPacketParams], pktInput Config.catalog modemS.pkt, 0⟩,
       ⟨[Config.catalog.opcSetTxParams], Config.catalog.txpBytes 0x1F (Config.catalog.rampCode ⟨2⟩), 0⟩] s :=
  ⟨_, resetWith_carries _⟩
/-- The payload of P4: the interrupt line is low for two samples at the wait, then high. -/
theorem witness_SendRuns :
    ∃ (s : State) (before low after : List Pins) (high : Pins), s.phase = .idle ∧ s.seq = none ∧ s.port = none ∧
      s.env = before ++ low ++ high :: after ++ [] ∧
      before.length + 1 = seqTime ((sendSteps Config.catalog [0x48, 0x69]).take 6) ∧
      after.length = seqTime ((sendSteps Config.catalog [0x48, 0x69]).drop 7) + 1 ∧
      (∀ p ∈ before, Cooperative p) ∧ low = [busyHigh, failing] ∧ (∀ p ∈ low, p.irq = .low) ∧ high.irq = .high ∧
      ∀ p ∈ after, Cooperative p := by
  have hpos : 0 < seqTime ((sendSteps Config.catalog [0x48, 0x69]).take 6) := Nat.lt_of_lt_of_le (by decide)
    (Nat.le_add_right (frameTime (frameOf (.cmd Config.catalog.opcSetBufferBaseAddress [0x00, 0x00] 0)) + 2) _)
  exact ⟨resetWith (List.replicate (seqTime ((sendSteps Config.catalog [0x48, 0x69]).take 6) - 1) good ++ [busyHigh, failing] ++
      good :: List.replicate (seqTime ((sendSteps Config.catalog [0x48, 0x69]).drop 7) + 1) good),
    _, _, _, good, rfl, rfl, rfl, (List.append_nil _).symm, by rw [List.length_replicate]; omega, List.length_replicate,
    good_cooperative _, rfl, by decide, rfl, good_cooperative _⟩
theorem witness_SequenceAbortsAtFirstError :
    let s : State := { sequenced ⟨[.waitIrq], some .status, Gathered.empty⟩ [good] with rsp := some (.err ⟨7⟩) }
    s.phase = .idle ∧ s.port = none ∧ s.seq = some ⟨[.waitIrq], some .status, Gathered.empty⟩ ∧ s.rsp = some (.err ⟨7⟩) := by
  decide
theorem witness_InterruptLowHoldsForEver :
    let s := sequenced ⟨[.waitIrq, .clearIrq], none, Gathered.empty⟩ [busyHigh, failing]
    s.phase = .idle ∧ s.port = none ∧ s.seq = some ⟨[.waitIrq, .clearIrq], none, Gathered.empty⟩ ∧
      s.env = [busyHigh, failing] ++ [] ∧ ∀ p ∈ [busyHigh, failing], p.irq = .low := by decide
theorem witness_ClearWritesObservedBits :
    let s := sequenced ⟨[.clearIrq], none, { Gathered.empty with irq := [0x40, 0x00] }⟩ []
    s.phase = .idle ∧ s.port = none ∧ s.seq = some ⟨[.clearIrq], none, { Gathered.empty with irq := [0x40, 0x00] }⟩ := by decide
theorem witness_ReceiveStepsInOrder :
    let s := { resetWith [] with program := [.receive true, .resetRadio] }
    s.phase = .idle ∧ s.port = none ∧ s.seq = none ∧ s.rsp = none ∧ s.program = .receive true :: [.resetRadio] := by decide
/-- The RX buffer status of P6; each of the three responses the design keeps, taken; a step to do; and nothing left. -/
theorem witness_ReceiveFetchesReportedPayload :
    (let s := sequenced ⟨[.fetchPayload, .clearIrq], none, { Gathered.empty with rxBuf := [0x03, 0x10] }⟩ []
     s.phase = .idle ∧ s.port = none ∧
       s.seq = some ⟨[.fetchPayload, .clearIrq], none, { Gathered.empty with rxBuf := [0x03, 0x10] }⟩) ∧
    (let s := sequenced ⟨[.op rS6 .pktStatus], none, Gathered.empty⟩ []
     s.phase = .idle ∧ s.port = none ∧ s.seq = some ⟨.op rS6 .pktStatus :: [], none, Gathered.empty⟩) ∧
    (∀ k ∈ [Collect.ignore, .status, .irq, .pktStatus, .rxBufStatus, .payload],
      let s : State := { sequenced ⟨[.clearIrq], some k, Gathered.empty⟩ [] with rsp := some (.ok [0x03, 0x10]) }
      s.phase = .idle ∧ s.port = none ∧ s.seq = some ⟨[.clearIrq], some k, Gathered.empty⟩ ∧
        s.rsp = some (.ok [0x03, 0x10])) ∧
    (let s := sequenced ⟨[], none, Gathered.empty⟩ []
     s.phase = .idle ∧ s.port = none ∧ s.seq = some ⟨[], none, Gathered.empty⟩) := by decide
theorem witness_ResetPulseRuns :
    (let s := { resetWith [busyHigh, busyHigh, good, failing, busyHigh, busyHigh, good, failing] with
        program := [.resetRadio, .receive true] }
     s.phase = .idle ∧ s.port = none ∧ s.seq = none ∧ s.rsp = none ∧ s.program = .resetRadio :: [.receive true] ∧
       s.env = busyHigh :: [busyHigh] ++ good :: failing :: [busyHigh, busyHigh] ++ good :: failing :: [] ∧
       (∀ p ∈ [busyHigh, busyHigh], p.elapsed = false) ∧ good.elapsed = true) ∧
    (let s := sequenced ⟨[.delay 12, .pinHigh], none, Gathered.empty⟩ [failing, busyHigh, good]
     s.phase = .idle ∧ s.port = none ∧ s.seq = some ⟨.delay 12 :: [.pinHigh], none, Gathered.empty⟩ ∧
       s.env = [failing, busyHigh] ++ [good] ∧ ∀ p ∈ [failing, busyHigh], p.elapsed = false) := by decide

/-- With nothing to do, the machine stays as it is but for the passing samples. -/
theorem run_quiet {n : Nat} {s t : State} (hp : s.port = none) (hi : s.phase = .idle) (hq : s.seq = none)
    (hg : s.program = []) (h : run n s = .next t) : t.phase = .idle ∧ t.seq = none := by
  induction n generalizing s with
  | zero =>
    obtain rfl : s = t := by simpa [run_zero] using h
    exact ⟨hi, hq⟩
  | succ n ih =>
    have hs := step_idle hp hi
    rw [run_succ hs] at h
    rcases hostMove_quiet (c := Config.catalog) (p := s.pins) hq hg with hm | ⟨r, hm⟩ <;> rw [hm] at h
    · exact ih (s := passSample s) hp hi hq hg h
    · exact ih (s := passSample (takeResponse r s)) hp hi hq hg h

/-- With no request in its program, the host never presents one. -/
theorem run_no_request {n : Nat} {s t : State} (hp : s.port = none) (hg : s.program = []) (h : run n s = .next t) :
    t.port = none ∧ t.program = [] := by
  induction n generalizing s with
  | zero =>
    obtain rfl : s = t := by simpa [run_zero] using h
    exact ⟨hp, hg⟩
  | succ n ih =>
    rw [run_step] at h
    cases hs : step s with
    | fault r => simp [hs] at h
    | refused r => simp [hs] at h
    | next u =>
      rw [hs] at h
      have key : u.port = none ∧ u.program = [] := by
        rw [step_agent hp] at hs
        obtain ⟨v, hv, rfl⟩ := settle_next hs
        cases hph : s.phase with
        | idle =>
          simp only [agentMove, hph, Host.Outcome.next.injEq] at hv
          subst hv
          cases hsq : s.seq with
          | none =>
            rcases hostMove_quiet (c := Config.catalog) (p := s.pins) hsq hg with hm | ⟨r, hm⟩ <;> rw [hm] <;> exact ⟨hp, hg⟩
          | some q =>
            simp only [hostMove, hsq]
            unfold seqMove
            split
            · split <;> simp [hp, hg]
            · split
              · simp [hp, hg]
              · unfold issueStep
                split <;> (try split) <;> simp [hp, hg]
        | preWait =>
          simp only [agentMove, hph, Host.Outcome.next.injEq] at hv
          subst hv
          rcases preWaitMove_cases s.pins s with ⟨_, e⟩ | ⟨_, e⟩ <;> rw [e] <;> exact ⟨hp, hg⟩
        | postWait =>
          simp only [agentMove, hph, Host.Outcome.next.injEq] at hv
          subst hv
          rcases postWaitMove_cases s.pins s with ⟨_, e⟩ | ⟨_, e⟩ <;> rw [e] <;> exact ⟨hp, hg⟩
        | xfer =>
          simp only [agentMove, hph] at hv
          obtain ⟨f, _, hi, rfl⟩ := xferMove_next hv
          rcases busEvent_cases f s.pins s hi with ⟨_, _, e⟩ | ⟨_, _, _, _, e⟩ | ⟨_, _, _, e⟩ | ⟨_, _, e⟩ <;> rw [e] <;>
            exact ⟨hp, hg⟩
      exact ih key.1 key.2 h

/-- A machine with nothing more to do after its schedule of good samples is in a fair environment. -/
theorem fair_of_quiet {k : Nat} {s q : State} (hp : s.port = none) (hg : s.program = [])
    (he : s.env = List.replicate k good) (hr : run k s = .next q) (hi : q.phase = .idle) (hq : q.seq = none) :
    BusyFair s ∧ IrqFair s := by
  have early : ∀ {n t}, run n s = .next t → n < k → t.pins = good := by
    intro n t ht hn
    have henv := run_env ht
    rw [he, List.drop_replicate, show k - n = (k - n - 1) + 1 by omega, List.replicate_succ] at henv
    exact pins_of_env henv
  have late : ∀ {n t}, run n s = .next t → k ≤ n → t.phase = .idle ∧ t.seq = none := by
    intro n t ht hn
    rw [show n = k + (n - k) by omega, run_add hr] at ht
    have hquiet := run_no_request hp hg hr
    exact run_quiet hquiet.1 hi hq hquiet.2 ht
  constructor
  · intro n t ht hw
    by_cases hn : n < k
    · exact ⟨0, t, rfl, rfl, (run_no_request hp hg ht).1, by rw [early ht hn]; rfl⟩
    · have hidle := (late ht (by omega)).1
      rcases hw with hw | hw <;> simp [hidle] at hw
  · intro n t todo got ht hph hsq
    by_cases hn : n < k
    · exact ⟨0, t, rfl, hph, (run_no_request hp hg ht).1, hsq, by rw [early ht hn]; rfl⟩
    · rw [(late ht (by omega)).2] at hsq
      simp at hsq

/-- T1, waiting for busy low, in a fair environment. -/
theorem witness_OperationEndsUnderFairness :
    let s := waiting (.cmd 0xC0 [] 0) (List.replicate 4 good)
    EngineInv s ∧ s.phase ≠ .idle ∧ s.port = none ∧ s.latches.frame = some ⟨[0xC0], [], 0⟩ ∧ BusyFair s := by
  refine ⟨?_, by decide, rfl, rfl, (fair_of_quiet (k := 4) rfl rfl rfl rfl rfl rfl).1⟩
  exact ⟨by decide, by decide, fun _ => ⟨_, rfl⟩, by decide, fun f h => absurd h (by decide), fun f h => absurd h (by decide),
    by decide, by simp [waiting, taken, resetWith, State.reset]⟩
/-- S7, just called, in a fair environment. -/
theorem witness_SequenceEndsUnderFairness :
    let s := resetWith (List.replicate 7 good)
    ∃ t, s.seq = none ∧ s.port = none ∧ exec .calibrate s = .next t ∧ t.seq ≠ none ∧ BusyFair t ∧ IrqFair t :=
  ⟨_, rfl, rfl, rfl, by simp [beginSeq, seqMove, calibrateSteps, plainCmd, issueStep, issueOp],
    fair_of_quiet (k := 7) rfl rfl rfl rfl rfl rfl⟩

end Sys2Proof.Machine.Tests
end

/-! The state of the machine: the engine invariant and what keeps it, chip-select, the observation of a record, the
codecs, the engine's independence of the host, and the end of every operation under fairness. -/

namespace Sys2Proof.Machine

/-! ## The engine invariant: what keeps it -/

/-- Outside XFER chip-select is released (R13). -/
theorem EngineInv.cs_released {s : State} (h : EngineInv s) (hx : s.phase ≠ .xfer) : s.cs = .released := by
  cases hc : s.cs with
  | released => rfl
  | asserted => exact absurd (h.chipSelect.mp hc) hx

/-- The invariant speaks of the engine only: the host's fields, the schedule and, once the engine is IDLE, the
response may be anything. -/
theorem EngineInv.of_host_fields {s : State} (h : EngineInv s) {rsp : Option Response}
    (hr : s.phase ≠ .idle → rsp = none) (codec : Option CodecValue) (port : Option Request) (program : List HostItem)
    (seq : Option SeqRun) (res : Option SeqResult) (call : Option Response) (pin : Level) (pulse : List PulseEvent)
    (env : List Pins) (tick : Nat) :
    EngineInv { s with
      rsp := rsp, codec := codec, port := port, program := program, seq := seq, seqResult := res, callResult := call
      resetPin := pin, pulse := pulse, env := env, tick := tick } :=
  ⟨h.chipSelect, hr, h.latched, h.unread, h.position, h.readWhole, h.trace, h.records⟩

theorem EngineInv.passSample {s : State} (h : EngineInv s) : EngineInv (passSample s) :=
  h.of_host_fields h.response ..

theorem EngineInv.takePort {s : State} (h : EngineInv s) : EngineInv (takePort s) :=
  h.of_host_fields h.response ..

theorem EngineInv.answer {s : State} (h : EngineInv s) (v : CodecValue) : EngineInv (answer v s) :=
  h.of_host_fields h.response ..

theorem EngineInv.respondOk_of_idle {s : State} (h : EngineInv s) (hi : s.phase = .idle) (bytes : List Byte) :
    EngineInv (s.respondOk bytes) :=
  h.of_host_fields (fun hne => absurd hi hne) ..

/-- One more event moves a history on by `Standing.after`. -/
theorem standing_append (h : List Event) (e : Event) : standing (h ++ [e]) = (standing h).bind (·.after e) := by
  simp [standing, List.foldl_append]

theorem EngineInv.trace_append {s : State} (h : EngineInv s) {e : Event} {w : Standing}
    (hw : s.phase.standing.after e = some w) : standing (s.history ++ [e]) = some w := by
  rw [standing_append, h.trace]
  exact hw

theorem EngineInv.records_append {s : State} (h : EngineInv s) {e : Event} (he : e.sound) :
    ∀ e' ∈ s.history ++ [e], e'.sound := by
  intro e' hmem
  rcases List.mem_append.mp hmem with hold | hnew
  · exact h.records e' hold
  · rw [List.mem_singleton.mp hnew]
    exact he

/-- An idle engine accepts an operation with every latch its frame needs (R87). -/
theorem EngineInv.accept {s : State} (h : EngineInv s) (hi : s.phase = .idle) (d : FramedOp) :
    EngineInv (accept d s) where
  chipSelect := by simp [h.cs_released (by simp [hi])]
  response _ := rfl
  latched _ := ⟨frameOf d, hold_frame d⟩
  unread _ := rfl
  position _ hx := by simp at hx
  readWhole _ hx := by simp at hx
  trace := h.trace.trans (by rw [hi]; rfl)
  records := h.records

theorem EngineInv.issueOp {s : State} (h : EngineInv s) (hi : s.phase = .idle) (d : FramedOp) (k : Collect)
    (rest : List SeqStep) (got : Gathered) (prog : List HostItem) (res : Option SeqResult) :
    EngineInv (issueOp d k rest got { s with program := prog, seqResult := res }) :=
  EngineInv.accept (h.of_host_fields h.response s.codec s.port prog (some ⟨rest, some k, got⟩) res ..) hi d

/-- The host's move keeps the invariant. -/
theorem EngineInv.hostMove {s : State} (h : EngineInv s) (hi : s.phase = .idle) (c : Catalog) (p : Pins) :
    EngineInv (hostMove c p s) := by
  rcases hostMove_cases c p s with
    ⟨d, k, rest, got, prog, res, e⟩ | ⟨rsp, port, prog, sq, res, call, pin, pulse, _, e⟩ <;> rw [e]
  · exact h.issueOp hi d k rest got prog res
  · exact h.of_host_fields (fun hne => absurd hi hne) ..

/-- Whatever an instruction does when it does not refuse keeps the invariant. -/
theorem EngineInv.exec {s u : State} (h : EngineInv s) {i : Instr} (hu : exec i s = .next u) : EngineInv u := by
  have hx := exec_executed i s
  rw [hu] at hx
  cases hx with
  | answers v => exact h.answer v
  | accepts d hi => exact h.accept hi d
  | flushes hi => exact h.respondOk_of_idle hi []
  | begins d k rest hi _ => exact h.issueOp hi d k rest Gathered.empty s.program none

/-! ### The wait steps -/

theorem EngineInv.preWaitMove {s : State} (h : EngineInv s) (hw : s.phase = .preWait) (p : Pins) :
    EngineInv (preWaitMove p s) := by
  have hne : s.phase ≠ .idle := by simp [hw]
  rcases preWaitMove_cases p s with ⟨_, e⟩ | ⟨_, e⟩ <;> rw [e]
  · exact h
  · exact {
      chipSelect := by simp
      response := fun _ => h.response hne
      latched := fun _ => h.latched hne
      unread := by simp
      position := by simp [h.unread hw]
      readWhole := by simp
      trace := h.trace_append (by rw [hw]; rfl)
      records := h.records_append trivial }

theorem EngineInv.postWaitMove {s : State} (h : EngineInv s) (hw : s.phase = .postWait) (p : Pins) :
    EngineInv (postWaitMove p s) := by
  rcases postWaitMove_cases p s with ⟨_, e⟩ | ⟨_, e⟩ <;> rw [e]
  · exact h
  · exact {
      chipSelect := by simp [h.cs_released (by simp [hw])]
      response := by simp
      latched := by simp
      unread := by simp
      position := by simp
      readWhole := by simp
      trace := h.trace_append (by rw [hw]; rfl)
      records := h.records_append trivial }

/-! ### The transfer step -/

section Transfer

variable {s : State} {f : Frame}

/-- A byte of the written part: the records take it, nothing has been read yet (R89). -/
theorem EngineInv.writeByte (h : EngineInv s) (hx : s.phase = .xfer) (hf : s.latches.frame = some f) {b : Byte}
    (hb : f.out[s.idx]? = some b) : EngineInv (writeByte b s) where
  chipSelect := h.chipSelect
  response := h.response
  latched := h.latched
  unread := h.unread
  position g _ hg := by
    obtain rfl : f = g := Option.some.inj (hf.symm.trans hg)
    obtain ⟨_, hmosi, hmiso, hlen⟩ := h.position f hx hf
    have hlt : s.idx < f.out.length := (List.getElem?_eq_some_iff.mp hb).1
    refine ⟨?_, ?_, hmiso, ?_⟩
    · simp only [writeByte_idx]; omega
    · simp [hmosi, List.take_add_one, hb]
    · simp only [writeByte_rbuf, writeByte_idx]; omega
  readWhole g hw := by simp [hx] at hw
  trace := h.trace
  records := h.records

/-- A byte of the read part: the read buffer and the record take it (R90). -/
theorem EngineInv.readByte (h : EngineInv s) (hx : s.phase = .xfer) (hf : s.latches.frame = some f)
    (hge : f.out.length ≤ s.idx) (hlt : s.idx < f.out.length + f.reads) (p : Pins) : EngineInv (readByte p s) where
  chipSelect := h.chipSelect
  response := h.response
  latched := h.latched
  unread hw := by simp [hx] at hw
  position g _ hg := by
    obtain rfl : f = g := Option.some.inj (hf.symm.trans hg)
    obtain ⟨_, hmosi, hmiso, hlen⟩ := h.position f hx hf
    refine ⟨hlt, ?_, by simp [hmiso], ?_⟩
    · simp [hmosi, List.take_of_length_le, hge, Nat.le_succ_of_le]
    · simp only [readByte_rbuf, readByte_idx, List.length_append, List.length_singleton]; omega
  readWhole g hw := by simp [hx] at hw
  trace := h.trace
  records := h.records

/-- A bus failure: the record holds what was moved, the engine is as between operations (R91, R172). -/
theorem EngineInv.raiseBusError (h : EngineInv s) (hx : s.phase = .xfer) (hf : s.latches.frame = some f) (e : BusErr) :
    EngineInv (raiseBusError f e s) where
  chipSelect := by simp
  response := by simp
  latched := by simp
  unread := by simp
  position := by simp
  readWhole := by simp
  trace := h.trace_append (by rw [hx]; rfl)
  records := h.records_append (by
    obtain ⟨hle, hmosi, hmiso, hlen⟩ := h.position f hx hf
    show s.mosi.length + s.miso.length = s.idx ∧ s.miso.length ≤ f.reads
    rw [hmosi, hmiso, List.length_take]
    omega)

/-- At the end of the frame the read part is whole (R92). -/
theorem EngineInv.release (h : EngineInv s) (hx : s.phase = .xfer) (hf : s.latches.frame = some f)
    (hend : s.idx = f.out.length + f.reads) : EngineInv (release f s) := by
  obtain ⟨_, _, hmiso, hlen⟩ := h.position f hx hf
  have hwhole : s.rbuf.length = f.reads := by omega
  exact {
    chipSelect := by simp
    response := fun _ => h.response (by simp [hx])
    latched := fun _ => ⟨f, hf⟩
    unread := by simp
    position := by simp
    readWhole := fun g _ hg => by
      obtain rfl : f = g := Option.some.inj (hf.symm.trans hg)
      exact hwhole
    trace := h.trace_append (by rw [hx]; rfl)
    records := h.records_append (by
      show s.miso.length = f.reads
      rw [hmiso, hwhole]) }

theorem EngineInv.busEvent (h : EngineInv s) (hx : s.phase = .xfer) (hf : s.latches.frame = some f) (p : Pins) :
    EngineInv (busEvent f p s) := by
  rcases busEvent_cases f p s (h.position f hx hf).1 with
    ⟨err, _, e⟩ | ⟨_, b, hb, _, e⟩ | ⟨_, hge, hlt, e⟩ | ⟨_, hend, e⟩ <;> rw [e]
  · exact h.raiseBusError hx hf err
  · exact h.writeByte hx hf hb
  · exact h.readByte hx hf hge hlt p
  · exact h.release hx hf hend

end Transfer

/-- Settles O3: by what the step did, each move being one of the lemmas above. -/
theorem stepKeepsInvariant : Obligations.StepKeepsInvariant := by
  intro s t h hs
  rcases step_cases hs with
    ⟨i, u, hu, rfl⟩ | ⟨_, hi, rfl⟩ | ⟨_, hw, rfl⟩ | ⟨_, hw, rfl⟩ | ⟨_, hx, f, hf, _, rfl⟩
  · exact (h.takePort.exec hu).passSample
  · exact (h.hostMove hi ..).passSample
  · exact (h.preWaitMove hw _).passSample
  · exact (h.postWaitMove hw _).passSample
  · exact (h.busEvent hx hf _).passSample

/-- Settles O2: after reset the engine is IDLE and the history empty, so every clause is a closed fact or has a false
premise. -/
theorem resetMeetsInvariant : Obligations.ResetMeetsInvariant where
  chipSelect := by decide
  response := by decide
  latched hne := absurd rfl hne
  unread hw := absurd hw (by decide)
  position _ hx := absurd hx (by decide)
  readWhole _ hw := absurd hw (by decide)
  trace := rfl
  records := by simp [State.reset]

/-- A step ends in a fault only when its move does. -/
theorem settle_fault {o : Host.Outcome State Fault Refusal} {e : Fault} (h : settle o = .fault e) : o = .fault e := by
  cases o with
  | next u => simp [settle] at h
  | fault r => simpa [settle] using h
  | refused r => simp [settle] at h

/-- No instruction faults: it gives a next state or refuses its caller. -/
theorem exec_ne_fault (i : Instr) (s : State) (e : Fault) : exec i s ≠ .fault e := by
  intro h
  have hx := exec_executed i s
  rw [h] at hx
  cases hx

/-- Under the invariant no agent's move faults: only the transfer step could, and it has a frame and a position within
it (R12, R15). -/
theorem EngineInv.agentMove_ne_fault {s : State} (h : EngineInv s) (e : Fault) : agentMove s ≠ .fault e := by
  cases hph : s.phase with
  | idle => simp [agentMove, hph]
  | preWait => simp [agentMove, hph]
  | postWait => simp [agentMove, hph]
  | xfer =>
    obtain ⟨f, hf⟩ := h.latched (by simp [hph])
    simp [agentMove, hph, xferMove_of_frame hf (h.position f hph hf).1]

/-- Settles O4: a step is a refusal, an instruction or an agent's move. -/
theorem invariantExcludesFaults : Obligations.InvariantExcludesFaults := by
  intro s h e hs
  unfold step at hs
  split at hs
  · simp at hs
  · exact exec_ne_fault _ _ e (settle_fault hs)
  · exact h.agentMove_ne_fault e (settle_fault hs)

/-! ## Chip-select -/

/-- Settles O5: only selection asserts chip-select and enters XFER, only a failure or the release leaves it; every
other move keeps both, or starts from IDLE. -/
theorem chipSelectExactlyInTransfer : Obligations.ChipSelectExactlyInTransfer := by
  refine ⟨by decide, fun s t h hs => ?_⟩
  rcases step_cases hs with
    ⟨i, u, hu, rfl⟩ | ⟨_, hi, rfl⟩ | ⟨_, hw, rfl⟩ | ⟨_, hw, rfl⟩ | ⟨_, hx, f, _, hle, rfl⟩
  · have hexec := exec_executed i (takePort s)
    rw [hu] at hexec
    cases hexec with
    | answers v => simpa using h
    | accepts d hi => simp [h, show s.phase = .idle from hi]
    | flushes hi => simpa using h
    | begins d k rest hi _ => simp [h, show s.phase = .idle from hi]
  · rcases hostMove_cases Config.catalog s.pins s with
      ⟨_, _, _, _, _, _, e⟩ | ⟨_, _, _, _, _, _, _, _, _, e⟩ <;> rw [e]
    · simp [h, hi]
    · exact h
  · rcases preWaitMove_cases s.pins s with ⟨_, e⟩ | ⟨_, e⟩ <;> rw [e]
    · exact h
    · simp
  · rcases postWaitMove_cases s.pins s with ⟨_, e⟩ | ⟨_, e⟩ <;> rw [e]
    · exact h
    · simp [h, hw]
  · rcases busEvent_cases f s.pins s hle with ⟨_, _, e⟩ | ⟨_, _, _, _, e⟩ | ⟨_, _, _, e⟩ | ⟨_, _, e⟩ <;> rw [e]
    · simp
    · simpa using h
    · simpa using h
    · simp

/-! ## The observation of a record -/

/-- Two adjacent writes are observed as one (R23). -/
theorem mergeSegments_writes (as bs : List Byte) (n : Nat) :
    mergeSegments [.write as, .write bs, .read n] =
      (if as ++ bs = [] then [] else [.write (as ++ bs)]) ++ (if n = 0 then [] else [.read n]) := by
  by_cases hb : bs = []
  · by_cases ha : as = [] <;> by_cases hn : n = 0 <;> simp [mergeSegments, ha, hb, hn]
  · by_cases hn : n = 0 <;> simp [mergeSegments, hb, hn]

/-- Settles O11: merging joins the two halves of the written part; at the release all of `header ++ body` has been
written, and the record is cut after the header. -/
theorem observationIgnoresSplit : Obligations.ObservationIgnoresSplit := by
  refine ⟨fun t => ?_, fun s f h hx hp hf hb hend => ?_⟩
  · rw [Txn.segments, mergeSegments_writes, List.take_append_drop]
  · obtain ⟨hle, hmosi, _, _⟩ := h.position f hx hf
    have hrel : busEvent f s.pins s = release f s := by
      simp [busEvent, hb, hend]
    have hwritten : s.mosi = f.header ++ f.body := by
      rw [hmosi, List.take_of_length_le (by omega), Frame.out]
    refine ⟨passSample (release f s), closedTxn f .done s, ?_, rfl, ?_⟩
    · rw [step_xfer hp hx hf hle, hrel]
    · simp [closedTxn, Txn.segments, Frame.segments, hwritten]

/-! ## Codecs -/

/-- Settles O15: each codec's arm of `exec` is an `answer`. -/
theorem codecsAnswerAtOnce : Obligations.CodecsAnswerAtOnce := by
  intro i s h
  cases i with
  | freqHz hz => exact ⟨_, rfl⟩
  | freqRaw b0 b1 b2 => exact ⟨_, rfl⟩
  | freqBytes f => exact ⟨_, rfl⟩
  | modPack sf bw cr => exact ⟨_, rfl⟩
  | modField sf bw cr => exact ⟨_, rfl⟩
  | modFec sf => exact ⟨_, rfl⟩
  | pktPre mant exp => exact ⟨_, rfl⟩
  | pktPack mant exp hdr len crc iq => exact ⟨_, rfl⟩
  | pktField mant exp hdr len crc iq => exact ⟨_, rfl⟩
  | txpMake power ramp => exact ⟨_, rfl⟩
  | irqOr flags => exact ⟨_, rfl⟩
  | statMode status => exact ⟨_, rfl⟩
  | calAll => exact ⟨_, rfl⟩
  | _ => exact absurd h Bool.false_ne_true

/-! ## The engine in flight and the host -/

/-- What a step of an operation in flight can be: a wait step or one event of the open transaction. -/
theorem step_inFlight_cases {s t : State} (hne : s.phase ≠ .idle) (hp : s.port = none) (hs : step s = .next t) :
    (s.phase = .preWait ∧ t = passSample (preWaitMove s.pins s)) ∨
    (s.phase = .postWait ∧ t = passSample (postWaitMove s.pins s)) ∨
    (s.phase = .xfer ∧ ∃ f, s.latches.frame = some f ∧ s.idx ≤ f.out.length + f.reads ∧
      t = passSample (busEvent f s.pins s)) := by
  rw [step_agent hp] at hs
  obtain ⟨u, hu, rfl⟩ := settle_next hs
  cases hph : s.phase with
  | idle => exact absurd hph hne
  | preWait =>
    simp only [agentMove, hph, Host.Outcome.next.injEq] at hu
    exact .inl ⟨rfl, by rw [hu]⟩
  | postWait =>
    simp only [agentMove, hph, Host.Outcome.next.injEq] at hu
    exact .inr (.inl ⟨rfl, by rw [hu]⟩)
  | xfer =>
    simp only [agentMove, hph] at hu
    obtain ⟨f, hf, hi, rfl⟩ := xferMove_next hu
    exact .inr (.inr ⟨rfl, f, hf, hi, rfl⟩)

section HostState

/-- The state with the host's own program, sequence, results and codec record replaced. -/
def State.withHost (prog : List HostItem) (sq : Option SeqRun) (res : Option SeqResult) (call : Option Response)
    (cv : Option CodecValue) (s : State) : State :=
  { s with program := prog, seq := sq, seqResult := res, callResult := call, codec := cv }

variable (prog : List HostItem) (sq : Option SeqRun) (res : Option SeqResult) (call : Option Response)
  (cv : Option CodecValue) (p : Pins) (s : State)

theorem preWaitMove_withHost :
    preWaitMove p (s.withHost prog sq res call cv) = (preWaitMove p s).withHost prog sq res call cv := by
  cases h : p.busy <;> simp [preWaitMove, h, State.withHost]

theorem postWaitMove_withHost :
    postWaitMove p (s.withHost prog sq res call cv) = (postWaitMove p s).withHost prog sq res call cv := by
  cases h : p.busy <;> simp [postWaitMove, h, State.withHost, State.respondOk]

theorem busEvent_withHost (f : Frame) :
    busEvent f p (s.withHost prog sq res call cv) = (busEvent f p s).withHost prog sq res call cv := by
  unfold busEvent
  cases hb : p.bus with
  | some e => rfl
  | none =>
    cases hi : f.out[s.idx]? with
    | some b => simp [State.withHost, hi, writeByte]
    | none => by_cases hlt : s.idx < f.out.length + f.reads <;> simp [State.withHost, hi, hlt] <;> rfl

end HostState

/-- Settles O16: the engine's moves read and write none of the host's fields, so they commute with replacing them. -/
theorem engineIgnoresHost : Obligations.EngineIgnoresHost := by
  intro s t prog sq res call cv hne hp hs
  show step (s.withHost prog sq res call cv) = .next (t.withHost prog sq res call cv)
  rcases step_inFlight_cases hne hp hs with ⟨hw, rfl⟩ | ⟨hw, rfl⟩ | ⟨hx, f, hf, hle, rfl⟩
  · exact (step_preWait (s := s.withHost prog sq res call cv) hp hw).trans (by rw [preWaitMove_withHost]; rfl)
  · exact (step_postWait (s := s.withHost prog sq res call cv) hp hw).trans (by rw [postWaitMove_withHost]; rfl)
  · exact (step_xfer (s := s.withHost prog sq res call cv) hp hx hf hle).trans (by rw [busEvent_withHost]; rfl)

/-! ## An operation in flight ends (R19) -/

/-- What belongs to the host, and the port, is the same in both states. -/
structure SameHost (s t : State) : Prop where
  port       : t.port = s.port
  program    : t.program = s.program
  seq        : t.seq = s.seq
  seqResult  : t.seqResult = s.seqResult
  callResult : t.callResult = s.callResult
  codec      : t.codec = s.codec
  resetPin   : t.resetPin = s.resetPin
  pulse      : t.pulse = s.pulse

/-- A run from `s` leads to the end of an operation of frame `f`: IDLE, chip-select released, `Ok` of the bytes asked
for or `Err(e)`, nothing of the host touched. -/
def Ends (f : Frame) (s : State) : Prop :=
  ∃ n t, run n s = .next t ∧ t.phase = .idle ∧ t.cs = .released ∧
    ((∃ out, out.length = f.reads ∧ t.rsp = some (.ok out)) ∨ ∃ e, t.rsp = some (.err e)) ∧ SameHost s t

section Ending

variable {f : Frame} {s t u : State}

theorem SameHost.trans (h : SameHost s t) (h' : SameHost t u) : SameHost s u :=
  ⟨h'.port.trans h.port, h'.program.trans h.program, h'.seq.trans h.seq, h'.seqResult.trans h.seqResult,
    h'.callResult.trans h.callResult, h'.codec.trans h.codec, h'.resetPin.trans h.resetPin, h'.pulse.trans h.pulse⟩

/-- The moves of the engine change only what is the engine's. -/
theorem SameHost.of_engine_fields (phase : Phase) (idx : Nat) (cs : ChipSelect) (latches : Latches)
    (rbuf : List Byte) (rsp : Option Response) (mosi miso driven : List Byte) (history : List Event) (env : List Pins)
    (tick : Nat) :
    SameHost s { s with
      phase := phase, idx := idx, cs := cs, latches := latches, rbuf := rbuf, rsp := rsp, mosi := mosi, miso := miso
      driven := driven, history := history, env := env, tick := tick } :=
  ⟨rfl, rfl, rfl, rfl, rfl, rfl, rfl, rfl⟩

/-- An operation ends if it ends from a state the run comes to. -/
theorem Ends.of_run {m : Nat} (h : Ends f t) (hr : run m s = .next t) (hh : SameHost s t) : Ends f s := by
  obtain ⟨n, u, hu, hidle, hcs, hrsp, hh'⟩ := h
  exact ⟨m + n, u, (run_add hr).trans hu, hidle, hcs, hrsp, hh.trans hh'⟩

theorem run_one (h : step s = .next t) : run 1 s = .next t := run_succ h

/-- A wait step that observes busy high lets one sample pass and does nothing else (R95). -/
theorem step_wait_high (hw : s.phase = .preWait ∨ s.phase = .postWait) (hp : s.port = none) (hb : s.pins.busy = .high) :
    step s = .next (passSample s) := by
  rcases hw with hw | hw
  · rw [step_preWait hp hw, preWaitMove, hb]
  · rw [step_postWait hp hw, postWaitMove, hb]

/-- On the way to any state with busy low, a waiting engine comes to a state that is the present one but for the
samples passed, and in which it observes busy low itself. -/
theorem wait_observes_low {m : Nat} (hw : s.phase = .preWait ∨ s.phase = .postWait) (hp : s.port = none)
    (hr : run m s = .next u) (hu : u.pins.busy = .low) :
    ∃ n env tick, run n s = .next { s with env := env, tick := tick } ∧
      ({ s with env := env, tick := tick } : State).pins.busy = .low := by
  induction m generalizing s with
  | zero =>
    obtain rfl : s = u := by simpa [run_zero] using hr
    exact ⟨0, s.env, s.tick, rfl, hu⟩
  | succ m ih =>
    cases hb : s.pins.busy with
    | low => exact ⟨0, s.env, s.tick, rfl, hb⟩
    | high =>
      have hs := step_wait_high hw hp hb
      rw [run_succ hs] at hr
      obtain ⟨n, env, tick, hn, hlow⟩ := ih (s := passSample s) hw hp hr
      exact ⟨n + 1, env, tick, (run_succ hs).trans hn, hlow⟩

/-- Fairness brings a waiting engine to observe busy low, the engine and the host being as they were (R19). -/
theorem BusyFair.observes_low (hfair : BusyFair s) (hw : s.phase = .preWait ∨ s.phase = .postWait)
    (hp : s.port = none) :
    ∃ n env tick, run n s = .next { s with env := env, tick := tick } ∧
      ({ s with env := env, tick := tick } : State).pins.busy = .low := by
  obtain ⟨m, u, hr, _, _, hlow⟩ := hfair 0 s rfl hw
  exact wait_observes_low hw hp hr hlow

/-- From POST_WAIT the operation ends with the whole read buffer (R93). -/
theorem ends_of_postWait (h : EngineInv s) (hw : s.phase = .postWait) (hp : s.port = none)
    (hf : s.latches.frame = some f) (hfair : BusyFair s) : Ends f s := by
  obtain ⟨n, env, tick, hn, hlow⟩ := hfair.observes_low (.inr hw) hp
  refine Ends.of_run ?_ hn (.of_engine_fields ..)
  have hs := step_postWait (s := { s with env := env, tick := tick }) hp hw
  rw [postWaitMove, hlow] at hs
  exact ⟨1, _, run_one hs, rfl, h.cs_released (by simp [hw]), .inl ⟨s.rbuf, h.readWhole f hw hf, rfl⟩,
    .of_engine_fields ..⟩

/-- From XFER it ends at once if the bus fails, and otherwise after the bytes that are left, of which each carried one
leaves one fewer (R89 to R92). -/
theorem ends_of_xfer {s : State} (h : EngineInv s) (hx : s.phase = .xfer) (hp : s.port = none)
    (hf : s.latches.frame = some f) (hfair : BusyFair s) : Ends f s := by
  have hle := (h.position f hx hf).1
  have hr := run_one (step_xfer hp hx hf hle)
  have hinv := (h.busEvent hx hf s.pins).passSample
  rcases busEvent_cases f s.pins s hle with
    ⟨err, _, e⟩ | ⟨_, b, _, hlt, e⟩ | ⟨_, _, hlt, e⟩ | ⟨_, _, e⟩ <;> rw [e] at hr hinv
  · exact ⟨1, _, hr, rfl, rfl, .inr ⟨err, rfl⟩, .of_engine_fields ..⟩
  · exact (ends_of_xfer hinv hx hp hf (hfair.of_run hr)).of_run hr (.of_engine_fields ..)
  · exact (ends_of_xfer hinv hx hp hf (hfair.of_run hr)).of_run hr (.of_engine_fields ..)
  · exact (ends_of_postWait hinv rfl hp hf (hfair.of_run hr)).of_run hr (.of_engine_fields ..)
termination_by f.out.length + f.reads - s.idx
decreasing_by
  · simp only [passSample_idx, writeByte_idx]; omega
  · simp only [passSample_idx, readByte_idx]; omega

/-- From PRE_WAIT chip-select is asserted once busy has been observed low, with the whole frame left (R88). -/
theorem ends_of_preWait (h : EngineInv s) (hw : s.phase = .preWait) (hp : s.port = none)
    (hf : s.latches.frame = some f) (hfair : BusyFair s) : Ends f s := by
  obtain ⟨n, env, tick, hn, hlow⟩ := hfair.observes_low (.inl hw) hp
  refine Ends.of_run ?_ hn (.of_engine_fields ..)
  have hs := step_preWait (s := { s with env := env, tick := tick }) hp hw
  have hinv := stepKeepsInvariant _ _ (h.of_host_fields h.response ..) hs
  rw [preWaitMove, hlow] at hs hinv
  exact (ends_of_xfer hinv rfl hp hf ((hfair.of_run hn).of_run (run_one hs))).of_run (run_one hs) (.of_engine_fields ..)

end Ending

/-- Settles O59: by the phase in which the operation is. -/
theorem operationEndsUnderFairness : Obligations.OperationEndsUnderFairness := by
  intro s f h hne hp hf hfair
  have hends : Ends f s := by
    cases hph : s.phase with
    | idle => exact absurd hph hne
    | preWait => exact ends_of_preWait h hph hp hf hfair
    | xfer => exact ends_of_xfer h hph hp hf hfair
    | postWait => exact ends_of_postWait h hph hp hf hfair
  obtain ⟨n, t, hr, hidle, hcs, hrsp, hh⟩ := hends
  exact ⟨n, t, hr, hidle, hcs, hrsp, hh.port.trans hp, hh.program, hh.seq, hh.seqResult, hh.callResult, hh.codec,
    hh.resetPin, hh.pulse⟩

end Sys2Proof.Machine

/-! The encoding: decoding undoes encoding, the frames of the framed operations at the port and in the latches, and the
step that takes up a request. -/

namespace Sys2Proof

/-! ## The first-byte map reads each header (R52 to R55, R65) -/

theorem decodeFrame_regw (hi lo : Byte) (data : List Byte) :
    decodeFrame (regWriteByte :: hi :: lo :: data) 0 = .ok (.regw (hi ++ lo) data) := rfl

theorem decodeFrame_regr (hi lo : Byte) (rlen : Nat) :
    decodeFrame [regReadByte, hi, lo, fillerByte] rlen = .ok (.regr (hi ++ lo) rlen) := rfl

theorem decodeFrame_bufw (off : Byte) (data : List Byte) :
    decodeFrame (bufWriteByte :: off :: data) 0 = .ok (.bufw off data) := rfl

theorem decodeFrame_bufr (off : Byte) (rlen : Nat) :
    decodeFrame [bufReadByte, off] rlen = .ok (.bufr off rlen) := rfl

/-- A first byte that is none of the four is an opcode. -/
theorem decodeFrame_cmd {opc : Byte} (h : opc ∉ [regWriteByte, regReadByte, bufWriteByte, bufReadByte])
    (wdata : List Byte) (rlen : Nat) : decodeFrame (opc :: wdata) rlen = .ok (.cmd opc wdata rlen) := by
  simp only [List.mem_cons, List.not_mem_nil, or_false, not_or] at h
  obtain ⟨hrw, hrr, hbw, hbr⟩ := h
  simp [decodeFrame, hrw, hrr, hbw, hbr]

/-- Settles O8: each frame has the header of its operation, and `0x86` is none of the four. -/
theorem decodeReadsSpecFrames : Obligations.DecodeReadsSpecFrames :=
  ⟨decodeFrame_regw 0x01 0x53 _, decodeFrame_regr 0x01 0x53 2, decodeFrame_bufw 0x00 _, decodeFrame_bufr 0x10 3,
    decodeFrame_cmd (opc := 0x86) (by decide) _ 0⟩

/-! ## Operands go there and back -/

theorem decodeMod_places (mk : SpreadingFactor → Bandwidth → CodingRate → Instr) (sf : SpreadingFactor)
    {bw : Bandwidth} {cr : CodingRate} (hbw : bw.wellFormed = true) (hcr : cr.wellFormed = true) :
    decodeMod mk (placeOfSf sf) (placeOfBw bw) (placeOfCr cr) = .ok (mk sf bw cr) := by
  simp [decodeMod, bwOfPlace_place hbw, crOfPlace_place hcr]

/-- Whatever is made of the three members of a packet is made of their places as well. -/
theorem packet_members_of_places {α : Type} (mk : HeaderType → CrcMode → IqMode → α) {hdr : HeaderType} {crc : CrcMode}
    {iq : IqMode} (h : (hdr.wellFormed && crc.wellFormed && iq.wellFormed) = true) :
    mk (hdrOfPlace (placeOfHdr hdr)) (crcOfPlace (placeOfCrc crc)) (iqOfPlace (placeOfIq iq)) = mk hdr crc iq := by
  simp only [Bool.and_eq_true] at h
  obtain ⟨⟨hhdr, hcrc⟩, hiq⟩ := h
  rw [hdrOfPlace_place hhdr, crcOfPlace_place hcrc, iqOfPlace_place hiq]

theorem decodePacket_encodePacket {p : PacketParams} (h : p.wellFormed = true) :
    decodePacket (encodePacket p) = .ok p :=
  congrArg Except.ok
    (packet_members_of_places (fun hdr crc iq => { p with hdr := hdr, crc := crc, iq := iq : PacketParams }) h)

theorem decodeModem_encodeModem {m : ModemParams} (hmod : m.mod.wellFormed = true) (hpkt : m.pkt.wellFormed = true) :
    decodeModem (encodeModem m) = .ok m := by
  simp only [ModulationParams.wellFormed, Bool.and_eq_true] at hmod
  obtain ⟨hbw, hcr⟩ := hmod
  simp [encodeModem, decodeModem, decodePacket_encodePacket hpkt, bwOfPlace_place hbw, crOfPlace_place hcr]

/-- A list of flags is read back flag by flag. -/
theorem map_flagOfPlace_place {flags : List IrqFlag} (h : flags.all IrqFlag.wellFormed = true) :
    (flags.map placeOfFlag).map flagOfPlace = flags := by
  have hid : ∀ f ∈ flags, (flagOfPlace ∘ placeOfFlag) f = id f := fun f hf =>
    flagOfPlace_place (List.all_eq_true.mp h f hf)
  rw [List.map_map, List.map_congr_left hid, List.map_id]

/-- Settles O6: an operation whose operands are bytes is read back as it stands, an address or a frequency from its
bytes, an enumeration member from its place. -/
theorem decodeOfEncode : Obligations.DecodeOfEncode := by
  intro i h
  cases i with
  | cmd opc wdata rlen => rfl
  | regw addr wdata =>
    exact (decodeFrame_regw _ _ wdata).trans (by rw [append_extract16])
  | regr addr rlen =>
    exact (decodeFrame_regr _ _ rlen).trans (by rw [append_extract16])
  | bufw off wdata => exact decodeFrame_bufw off wdata
  | bufr off rlen => exact decodeFrame_bufr off rlen
  | flush => rfl
  | freqHz hz => exact congrArg (Except.ok ∘ Instr.freqHz) (append_extract32 hz)
  | freqRaw b0 b1 b2 => rfl
  | freqBytes f => rfl
  | modPack sf bw cr =>
    obtain ⟨hbw, hcr⟩ := (Bool.and_eq_true ..).mp h
    exact decodeMod_places .modPack sf hbw hcr
  | modField sf bw cr =>
    obtain ⟨hbw, hcr⟩ := (Bool.and_eq_true ..).mp h
    exact decodeMod_places .modField sf hbw hcr
  | modFec sf => simp [decode, encode, decodeOperation]
  | pktPre mant exp => rfl
  | pktPack mant exp hdr len crc iq =>
    exact congrArg Except.ok (packet_members_of_places (Instr.pktPack mant exp · len · ·) h)
  | pktField mant exp hdr len crc iq =>
    exact congrArg Except.ok (packet_members_of_places (Instr.pktField mant exp · len · ·) h)
  | txpMake power ramp => rfl
  | irqOr flags => exact congrArg (Except.ok ∘ Instr.irqOr) (map_flagOfPlace_place h)
  | statMode status => rfl
  | calAll => rfl
  | setfreq f => rfl
  | setmod sf bw cr =>
    obtain ⟨hbw, hcr⟩ := (Bool.and_eq_true ..).mp h
    exact decodeMod_places .setmod sf hbw hcr
  | setpkt pkt => simp [decode, encode, decodeOperation, decodePacket_encodePacket h]
  | calibrate => rfl
  | configure modem =>
    obtain ⟨hmod, hpkt⟩ := (Bool.and_eq_true ..).mp h
    simp [decode, encode, decodeOperation, decodeModem_encodeModem hmod hpkt]
  | send payload => rfl

end Sys2Proof

namespace Sys2Proof.Machine

/-! ## Frames at the port and in the latches (R50 to R57) -/

/-- The written part of an operation's frame is the bytes of its request. -/
theorem frameOf_out_eq_encode (d : FramedOp) : (frameOf d).out = (encode d.instr).bytes := by cases d <;> rfl

/-- The read part of an operation's frame is its request's read count. -/
theorem frameOf_reads_eq_encode (d : FramedOp) : (frameOf d).reads = (encode d.instr).rlen := by cases d <;> rfl

/-- Settles O9: the latches give back the frame of the operation they hold, which is its request. -/
theorem latchedFrameIsEncodedFrame : Obligations.LatchedFrameIsEncodedFrame :=
  fun d => ⟨frameOf d, hold_frame d, frameOf_out_eq_encode d, frameOf_reads_eq_encode d⟩

/-- The meaning of a framed operation's instruction is its request to the engine (R81 to R85). -/
theorem exec_instr (d : FramedOp) (s : State) : exec d.instr s = request d s := by cases d <;> rfl

/-- An idle engine accepts every framed operation (R66, R87). -/
theorem exec_instr_of_idle (d : FramedOp) {s : State} (hi : s.phase = .idle) :
    exec d.instr s = .next (taken (Latches.hold d) s) := by
  rw [exec_instr, request, if_pos hi, accept_eq_taken]

/-- Settles O10: every command is accepted, and in each pair the command's header and input bytes are the other's header
and body. -/
theorem commandMayLookLikeRegisterWrite : Obligations.CommandMayLookLikeRegisterWrite := by
  intro hi lo off data rlen s hidle c d hmem
  refine ⟨exec_instr_of_idle c hidle, frameOf c, frameOf d, hold_frame c, hold_frame d, ?_⟩
  simp only [List.mem_cons, Prod.mk.injEq, List.not_mem_nil, or_false] at hmem
  obtain ⟨rfl, rfl⟩ | ⟨rfl, rfl⟩ | ⟨rfl, rfl⟩ | ⟨rfl, rfl⟩ := hmem
  · simp [frameOf, Frame.out, be16_append, regWriteByte]
  · simp [frameOf, Frame.out, be16_append, regReadByte, fillerByte]
  · exact ⟨rfl, rfl⟩
  · exact ⟨rfl, rfl⟩

/-! ## The step that takes up a request -/

/-- A decoded request is fetched, unless it is a second caller's in the middle of a sequence (U8). -/
theorem fetch_decoded {r : Request} {i : Instr} {s : State} (hp : s.port = some r) (hd : decode r = .ok i)
    (hc : s.seq = none ∨ isCodec i = true) : fetch s = .ok (some i) := by
  have hmine : (s.seq.isSome && !isCodec i) = false := by
    rcases hc with h | h <;> simp [h]
  simp [fetch, hp, hd, hmine]

/-- With a request at the port the step is the meaning of its instruction, and one sample passes. -/
theorem step_decoded {r : Request} {i : Instr} {s : State} (hp : s.port = some r) (hd : decode r = .ok i)
    (hc : s.seq = none ∨ isCodec i = true) : step s = settle (exec i (takePort s)) := by
  simp [step, fetch_decoded hp hd hc]

/-- Settles O12: the port's request is fetched, decoded and run; the idle host's move is its program's next item or the
taking of a response. -/
theorem stepRunsDecodedRequest : Obligations.StepRunsDecodedRequest := by
  refine ⟨fun r i s hp hd hc => ?_, fun r items s hi hp hq hr hg => ?_, fun r s hi hp hq hr => ?_⟩
  · rw [step_decoded hp hd hc]
    change settle (exec i { s with port := none }) = _
    cases exec i { s with port := none } <;> rfl
  · rw [step_idle hp hi, hostMove_program hq hr]
    simp [programMove, hg, passSample]
  · rw [step_idle hp hi, hostMove_take hq hr]
    rfl

end Sys2Proof.Machine

/-! The transport: what the engine does in each phase, the hold while busy is high, and every framed operation from its
acceptance to its end or to a bus failure. -/

namespace Sys2Proof.Machine

/-! ## Requests (R86, R87) -/

section Requests

variable {s : State}

theorem request_inFlight (h : s.phase ≠ .idle) (d : FramedOp) : request d s = .refused .requestInFlight := if_neg h

theorem startSeq_inFlight (h : s.phase ≠ .idle) (steps : List SeqStep) :
    startSeq steps s = .refused .requestInFlight := if_neg h

end Requests

/-- Settles O13: an instruction that is no codec is a framed operation, FLUSH or a sequence, and each of these asks the
phase first. -/
theorem requestInFlightRefused : Obligations.RequestInFlightRefused := by
  intro i s hc h
  cases i with
  | cmd opc wdata rlen => exact request_inFlight h _
  | regw addr wdata => exact request_inFlight h _
  | regr addr rlen => exact request_inFlight h _
  | bufw off wdata => exact request_inFlight h _
  | bufr off rlen => exact request_inFlight h _
  | flush => exact if_neg h
  | setfreq f => exact startSeq_inFlight h _
  | setmod sf bw cr => exact startSeq_inFlight h _
  | setpkt pkt => exact startSeq_inFlight h _
  | calibrate => exact startSeq_inFlight h _
  | configure modem => exact startSeq_inFlight h _
  | send payload => exact startSeq_inFlight h _
  | _ => exact absurd hc.symm Bool.false_ne_true

/-- Settles O31: an idle engine answers FLUSH in `exec` itself. -/
theorem flushAnswersAtOnce : Obligations.FlushAnswersAtOnce := fun _ hi => if_pos hi

/-! ## The wait steps (R88, R93 to R95) -/

/-- Settles O17: the pre-wait reads the busy line of the present sample. -/
theorem preWaitObservesLowAndSelects : Obligations.PreWaitObservesLowAndSelects := by
  refine fun s hw hp => ⟨fun hb => ?_, step_wait_high (.inl hw) hp⟩
  rw [step_preWait hp hw, preWaitMove, hb]
  rfl

/-- Settles O22: the post-wait reads the busy line of the present sample. -/
theorem postWaitAnswers : Obligations.PostWaitAnswers := by
  refine fun s hw hp => ⟨fun hb => ?_, step_wait_high (.inr hw) hp⟩
  rw [step_postWait hp hw, postWaitMove, hb]
  rfl

/-- Settles O23: by the level of the busy line, and by the wait when it is low. -/
theorem waitStepsGoOrHold : Obligations.WaitStepsGoOrHold := by
  intro s hw hp
  cases hb : s.pins.busy with
  | high => exact ⟨_, step_wait_high hw hp hb, .inl ⟨rfl, rfl⟩⟩
  | low =>
    rcases hw with hw | hw
    · exact ⟨_, (preWaitObservesLowAndSelects s hw hp).1 hb, .inr (.inl ⟨rfl, hw, rfl, rfl⟩)⟩
    · exact ⟨_, (postWaitAnswers s hw hp).1 hb, .inr (.inr ⟨rfl, hw, rfl, rfl⟩)⟩

/-- Settles O24: by induction on the stretch, each sample of which is let pass with nothing else changed. -/
theorem busyHighHoldsForEver : Obligations.BusyHighHoldsForEver := by
  intro s ps
  induction ps generalizing s with
  | nil =>
    rintro rest - - rfl -
    rfl
  | cons p ps ih =>
    intro rest hw hp he hc
    have hb : s.pins.busy = .high := by rw [pins_of_env he]; exact hc p (by simp)
    have hrest := ih (passSample s) rest hw hp (by simp [he]) (fun q hq => hc q (by simp [hq]))
    rw [List.length_cons, run_succ (step_wait_high hw hp hb), hrest]
    simp [passSample, Nat.add_assoc, Nat.add_comm 1]

/-! ## The transfer step (R89 to R92) -/

section BusEvent

variable {f : Frame} {p : Pins} {s : State}

theorem busEvent_fail {e : BusErr} (hb : p.bus = some e) : busEvent f p s = raiseBusError f e s := by
  simp [busEvent, hb]

theorem busEvent_write (hb : p.bus = none) {b : Byte} (hi : f.out[s.idx]? = some b) :
    busEvent f p s = writeByte b s := by
  simp [busEvent, hb, hi]

theorem busEvent_read (hb : p.bus = none) (hge : f.out.length ≤ s.idx) (hlt : s.idx < f.out.length + f.reads) :
    busEvent f p s = readByte p s := by
  simp [busEvent, hb, hge, hlt]

theorem busEvent_release (hb : p.bus = none) (hend : s.idx = f.out.length + f.reads) :
    busEvent f p s = release f s := by
  simp [busEvent, hb, hend]

end BusEvent

/-- Settles O18: a position with a frame byte is in the written part. -/
theorem transferWritesFrameByte : Obligations.TransferWritesFrameByte := by
  intro s f b hx hp hf hb hi
  have hlt : s.idx < f.out.length := (List.getElem?_eq_some_iff.mp hi).1
  rw [step_xfer hp hx hf (by omega), busEvent_write hb hi]
  rfl

/-- Settles O19: the byte that goes out is the free draw of the present step. -/
theorem transferReadsOracleByte : Obligations.TransferReadsOracleByte := by
  intro s f hx hp hf hb hge hlt
  refine ⟨Config.fill s.tick, ?_⟩
  rw [step_xfer hp hx hf hlt.le, busEvent_read hb hge hlt]
  rfl

/-- Settles O20: the failure is looked at before the position. -/
theorem busFailureRaisesBusError : Obligations.BusFailureRaisesBusError := by
  intro s f e hx hp hf hle hb
  rw [step_xfer hp hx hf hle, busEvent_fail hb]
  rfl

/-- Settles O21: at the end of the frame no byte is left to write or to read. -/
theorem releaseClosesTransaction : Obligations.ReleaseClosesTransaction := by
  intro s f hx hp hf hb hend
  rw [step_xfer hp hx hf hend.le, busEvent_release hb hend]
  rfl

/-! ## The open transaction after `k` frame bytes -/

/-- The state in XFER once `k` bytes of the frame have been moved, `out` having been read, `fill` having gone out
meanwhile and `env` being what is left of the schedule. -/
def transferred (f : Frame) (k : Nat) (out fill : List Byte) (env : List Pins) (s : State) : State :=
  { s with
    history := s.history ++ [.busyLow .pre], cs := .asserted, idx := k, phase := .xfer, mosi := f.out.take k
    miso := out, rbuf := out, driven := f.out.take k ++ fill, env := env, tick := s.tick + (k + 1) }

/-- On a schedule that ends within the operation's bytes, the read part is all that comes after the written part. -/
theorem readPart_eq_drop {f : Frame} {ps : List Pins} (h : ps.length ≤ f.out.length + f.reads + 1) :
    readPart f ps = (ps.drop (1 + f.out.length)).map Pins.miso := by
  rw [readPart, List.take_of_length_le (by rw [List.length_drop]; omega)]

theorem readPart_length {f : Frame} {ps : List Pins} {k : Nat} (hk : k ≤ f.out.length + f.reads)
    (hl : ps.length = k + 1) : (readPart f ps).length = k - f.out.length := by
  rw [readPart_eq_drop (by omega), List.length_map, List.length_drop]
  omega

/-- The samples after the last frame byte present no byte of the read part. -/
theorem readPart_append {f : Frame} {ps : List Pins} (h : ps.length = f.out.length + f.reads + 1) (more : List Pins) :
    readPart f (ps ++ more) = readPart f ps := by
  rw [readPart, List.drop_append_of_le_length (by omega),
    List.take_append_of_le_length (by rw [List.length_drop]; omega), readPart]

section Operation

variable {f : Frame} {s : State}

/-- The pre-wait and `k` carried bytes lead to the open transaction after `k` bytes (R88 to R90). -/
theorem run_transferred (hf : s.latches.frame = some f) (hp : s.port = none) (hw : s.phase = .preWait)
    (hr : s.rbuf = []) {k : Nat} (hk : k ≤ f.out.length + f.reads) {ps rest : List Pins} (he : s.env = ps ++ rest)
    (hl : ps.length = k + 1) (hc : ∀ p ∈ ps, Cooperative p) :
    ∃ fill, fill.length = k - f.out.length ∧
      run (k + 1) s = .next (transferred f k (readPart f ps) fill rest s) := by
  rw [readPart_eq_drop (by omega)]
  exact run_bytes s hf hp hw hr k hk ps rest he hl hc

/-- After the last byte two cooperative samples end the operation: release and post-wait (R92, R93). -/
theorem run_ended (hf : s.latches.frame = some f) (hp : s.port = none) {out fill : List Byte} {p q : Pins}
    {rest : List Pins} (hc : p.bus = none) (hq : q.busy = .low) :
    run 2 (transferred f (f.out.length + f.reads) out fill (p :: q :: rest) s) = .next (ended f out fill rest s) := by
  have hrelease := releaseClosesTransaction (transferred f (f.out.length + f.reads) out fill (p :: q :: rest) s)
    f rfl hp hf hc rfl
  refine (run_succ hrelease).trans ((run_one ((postWaitAnswers _ rfl ?port).1 ?busy)).trans ?_)
  case port => exact hp
  case busy => exact hq
  simp [transferred, ended, doneEvents, frameTime, List.take_of_length_le, Nat.add_assoc]

/-- An engine that has taken an operation of frame `f` carries it out (R80, R96). -/
theorem carriedOut_of_preWait (hf : s.latches.frame = some f) (hw : s.phase = .preWait) (hr : s.rbuf = []) :
    CarriedOut f s := by
  intro ps rest hp he hl hc
  obtain ⟨qs, p, q, rfl⟩ : ∃ qs p q, ps = qs ++ [p, q] := by
    obtain ⟨p, q, hpq⟩ := List.length_eq_two.mp
      (show (ps.drop (f.out.length + f.reads + 1)).length = 2 by simp [hl, frameTime])
    exact ⟨ps.take (f.out.length + f.reads + 1), p, q, by rw [← hpq, List.take_append_drop]⟩
  have hqs : qs.length = f.out.length + f.reads + 1 := by simpa [frameTime] using hl
  obtain ⟨fill, hfill, hrun⟩ := run_transferred (rest := p :: q :: rest) hf hp hw hr le_rfl (by simpa using he) hqs
    (fun r hmem => hc r (by simp [hmem]))
  rw [readPart_append hqs]
  refine ⟨fill, by omega, by rw [readPart_length le_rfl hqs]; omega, ?_⟩
  exact (run_add hrun).trans (run_ended hf hp (hc p (by simp)).2 (hc q (by simp)).1)

end Operation

/-! ## Whole operations (R81 to R85) -/

/-- An idle engine accepts every framed operation and carries it out. -/
theorem framedOp_completes (d : FramedOp) {s : State} (hi : s.phase = .idle) :
    exec d.instr s = .next (taken (Latches.hold d) s) ∧ CarriedOut (frameOf d) (taken (Latches.hold d) s) :=
  ⟨exec_instr_of_idle d hi, carriedOut_of_preWait (hold_frame d) rfl rfl⟩

/-- The header of a register write names the address high byte first (R52, R57). -/
theorem frameOf_regw (hi lo : Byte) (wdata : List Byte) :
    frameOf (.regw (hi ++ lo) wdata) = ⟨[0x18, hi, lo], wdata, 0⟩ := by
  simp [frameOf, be16_append, regWriteByte]

/-- The header of a register read names the address high byte first and ends in the filler (R53, R57). -/
theorem frameOf_regr (hi lo : Byte) (rlen : Nat) :
    frameOf (.regr (hi ++ lo) rlen) = ⟨[0x19, hi, lo, 0x00], [], rlen⟩ := by
  simp [frameOf, be16_append, regReadByte, fillerByte]

/-- Settles O26: the frame of a command is its opcode and its input bytes. -/
theorem cmdCompletes : Obligations.CmdCompletes := fun opc wdata rlen _ hi =>
  framedOp_completes (.cmd opc wdata rlen) hi

/-- Settles O27: the address is split into the two bytes it was put together from. -/
theorem regwCompletes : Obligations.RegwCompletes := by
  intro hi lo wdata s hidle
  rw [← frameOf_regw]
  exact framedOp_completes (.regw (hi ++ lo) wdata) hidle

/-- Settles O28: the address is split into the two bytes it was put together from. -/
theorem regrCompletes : Obligations.RegrCompletes := by
  intro hi lo rlen s hidle
  rw [← frameOf_regr]
  exact framedOp_completes (.regr (hi ++ lo) rlen) hidle

/-- Settles O29: the frame of a buffer write is its first byte, the offset and the payload. -/
theorem bufwCompletes : Obligations.BufwCompletes := fun off wdata _ hi => framedOp_completes (.bufw off wdata) hi

/-- Settles O30: the frame of a buffer read is its first byte and the offset. -/
theorem bufrCompletes : Obligations.BufrCompletes := fun off rlen _ hi => framedOp_completes (.bufr off rlen) hi

/-- Settles O32: `k` bytes are carried, and the failure of the next event closes the record with what they left in
it. -/
theorem failedOperationLeavesPartialRecord : Obligations.FailedOperationLeavesPartialRecord := by
  intro d s ps rest p e k hk hp he hl hc hb
  obtain ⟨fill, _, hrun⟩ := run_transferred (s := taken (Latches.hold d) s) (hold_frame d) hp rfl rfl hk he hl hc
  have hfail := busFailureRaisesBusError
    (transferred (frameOf d) k (readPart (frameOf d) ps) fill (p :: rest) (taken (Latches.hold d) s))
    (frameOf d) e rfl hp (hold_frame d) hk hb
  have hout : (readPart (frameOf d) ps).take (k - (frameOf d).out.length) = readPart (frameOf d) ps :=
    List.take_of_length_le (readPart_length hk hl).le
  refine ⟨(frameOf d).out.take k ++ fill, (run_add hrun).trans ((run_one hfail).trans ?_)⟩
  simp [transferred, taken, failedEvents, hout, Nat.add_assoc]

end Sys2Proof.Machine

/-! The frequency codec: the three bytes of a step count as its base-256 digits, and the arithmetic of the step
count. -/

namespace Sys2Proof.Machine

/-! ## The bytes of a step count (R58, R110) -/

/-- A field of a word given by a number, as a number. -/
theorem extract_ofNat {w start len : Nat} (n : Nat) (h : start + len ≤ w) :
    (BitVec.ofNat w n).extractLsb' start len = BitVec.ofNat len (n / 2 ^ start) := by
  obtain ⟨m, rfl⟩ := Nat.exists_eq_add_of_le h
  apply BitVec.eq_of_toNat_eq
  rw [BitVec.extractLsb'_toNat, BitVec.toNat_ofNat, BitVec.toNat_ofNat, Nat.shiftRight_eq_div_pow, Nat.add_assoc,
    Nat.pow_add, Nat.mod_mul_right_div_self, Nat.pow_add, Nat.mod_mul_right_mod]

/-- The three bytes of a step count are its last three base-256 digits. -/
theorem freqOfSteps_digits (n : Nat) :
    freqOfSteps n = ⟨BitVec.ofNat 8 (n / 65536), BitVec.ofNat 8 (n / 256), BitVec.ofNat 8 n⟩ := by
  simp [freqOfSteps, extract_ofNat]

/-- Read big-endian, the bytes are the step count modulo 2^24 (R113). -/
theorem freqOfSteps_value (n : Nat) :
    (freqOfSteps n).b0.toNat * 65536 + (freqOfSteps n).b1.toNat * 256 + (freqOfSteps n).b2.toNat = n % 2 ^ 24 := by
  simp only [freqOfSteps_digits, BitVec.toNat_ofNat]
  omega

/-- A byte does not see a multiple of 256. -/
theorem byte_ofNat_add_mul (n k : Nat) : BitVec.ofNat 8 (n + k * 256) = BitVec.ofNat 8 n :=
  BitVec.eq_of_toNat_eq (Nat.add_mul_mod_self_right n k 256)

/-- A multiple of 2^16 steps is added to byte 0, modulo 256, and leaves bytes 1 and 2 alone. -/
theorem freqOfSteps_add (n k : Nat) :
    freqOfSteps (n + k * 65536) = { freqOfSteps n with b0 := (freqOfSteps n).b0 + BitVec.ofNat 8 k } := by
  have h0 : (n + k * 65536) / 65536 = n / 65536 + k := by omega
  have h1 : (n + k * 65536) / 256 = n / 256 + k * 256 := by omega
  have h2 : n + k * 65536 = n + k * 256 * 256 := by omega
  rw [freqOfSteps_digits, freqOfSteps_digits, h0, h1, h2, byte_ofNat_add_mul, byte_ofNat_add_mul, BitVec.ofNat_add]

/-! ## The step count (R113, R114, R117) -/

/-- The equivalent form: 2^8 is a factor of 2^18 and of 52 000 000 (R114). -/
theorem freqSteps_eq (hz : Nat) : freqSteps hz = hz * 1024 / 203125 :=
  calc hz * 2 ^ 18 / 52000000
    _ = hz * 1024 * 2 ^ 8 / (203125 * 2 ^ 8) := by rw [Nat.mul_assoc]; rfl
    _ = hz * 1024 / 203125 := Nat.mul_div_mul_right _ _ (by decide)

theorem freqSteps_mono {hz1 hz2 : Nat} (h : hz1 ≤ hz2) : freqSteps hz1 ≤ freqSteps hz2 :=
  Nat.div_le_div_right (Nat.mul_le_mul_right _ h)

/-- On the truncation-free range a step count fits in 24 bits (R116). -/
theorem freqSteps_lt {hz : Nat} (h : hz < 3328000000) : freqSteps hz < 2 ^ 24 := by
  rw [freqSteps]
  omega

/-- The crystal frequency, 52 MHz, is 2^18 steps, so a multiple of it is added exactly (R117). -/
theorem freqSteps_add_crystal (hz k : Nat) : freqSteps (hz + k * 52000000) = freqSteps hz + k * 2 ^ 18 := by
  have hmul : (hz + k * 52000000) * 2 ^ 18 = hz * 2 ^ 18 + k * 2 ^ 18 * 52000000 := by ring
  rw [freqSteps, hmul, Nat.add_mul_div_right _ _ (by decide), freqSteps]

/-- A multiple of the crystal frequency is four times as much in byte 0 (R117). -/
theorem freqOfSteps_add_crystal (hz k : Nat) :
    freqOfSteps (freqSteps (hz + k * 52000000)) =
      { freqOfSteps (freqSteps hz) with b0 := (freqOfSteps (freqSteps hz)).b0 + BitVec.ofNat 8 (k * 4) } := by
  have hsteps : freqSteps (hz + k * 52000000) = freqSteps hz + k * 4 * 65536 := by
    rw [freqSteps_add_crystal]
    omega
  rw [hsteps, freqOfSteps_add]

/-- The period is sixty-four times the crystal frequency: byte 0 grows by 256, which is nothing (R117). -/
theorem freqOfHz_add_period {hz : BitVec 32} (h : hz.toNat + 3328000000 < 2 ^ 32) :
    freqOfHz (hz + 3328000000#32) = freqOfHz hz := by
  have hsum : (hz + 3328000000#32).toNat = hz.toNat + 64 * 52000000 := BitVec.toNat_add_of_lt h
  rw [freqOfHz, hsum, freqOfSteps_add_crystal]
  simp [freqOfHz]

/-! ## The obligations -/

/-- Settles O33: the bytes are the digits of the step count, which is the floor by definition. -/
theorem freqHzEncodesSteps : Obligations.FreqHzEncodesSteps :=
  fun hz _ => ⟨_, _, _, rfl, freqOfSteps_value (freqSteps hz.toNat)⟩

/-- Settles O34: neither operation computes anything. -/
theorem freqRawAndBytesAreIdentity : Obligations.FreqRawAndBytesAreIdentity := fun _ _ _ _ => ⟨rfl, rfl⟩

/-- Settles O35: one crystal frequency, and sixty-four of them. -/
theorem freqArithmeticLaws : Obligations.FreqArithmeticLaws :=
  ⟨freqSteps_eq, fun _ _ hle hlt => ⟨freqSteps_mono hle, freqSteps_lt hlt⟩,
    fun hz => ⟨freqSteps_add_crystal hz 1, freqOfSteps_add_crystal hz 1⟩, fun _ => freqOfHz_add_period⟩

end Sys2Proof.Machine

/-! The packers: the padded fields as their bytes, the preamble nibbles, the union of bits, the mode look-up and the six
calibration bits. -/

namespace Sys2Proof.Machine

/-! ## The padded fields (R59, R60) -/

/-- The bytes above the last one do not see it. -/
theorem extract_append_above {w : Nat} (x : BitVec w) (b : Byte) (k : Nat) :
    (x ++ b).extractLsb' (8 + k) 8 = x.extractLsb' k 8 := by
  rw [BitVec.extractLsb'_append_eq_of_le (Nat.le_add_right 8 k), Nat.add_sub_cancel_left]

theorem be24_append (x : Half) (b : Byte) : be24 (x ++ b) = be16 x ++ [b] :=
  congrArg₂ _ (extract_append_above x b 8) (congrArg₂ _ (extract_append_above x b 0)
    (congrArg₂ _ (extract_append_low x b) rfl))

theorem be32_append (x : BitVec 24) (b : Byte) : be32 (x ++ b) = be24 x ++ [b] :=
  congrArg₂ _ (extract_append_above x b 16) (congrArg₂ _ (extract_append_above x b 8)
    (congrArg₂ _ (extract_append_above x b 0) (congrArg₂ _ (extract_append_low x b) rfl)))

/-- The 32-bit field on the wire (R123). -/
theorem be32_modField (c : Catalog) (m : ModulationParams) : be32 (modField c m) = 0 :: modPack c m :=
  calc be32 (modField c m)
    _ = be24 (0#8 ++ sfCode c m.sf ++ bwCode c m.bw) ++ [crCode c m.cr] := be32_append _ _
    _ = (be16 (0#8 ++ sfCode c m.sf) ++ [bwCode c m.bw]) ++ [crCode c m.cr] := by rw [be24_append]
    _ = 0 :: modPack c m := by rw [be16_append]; rfl

/-- The pad byte leaves bits 31:24 zero (R123). -/
theorem modField_lt (c : Catalog) (m : ModulationParams) : (modField c m).toNat < 2 ^ 24 := by
  rw [modField, toNat_cat, toNat_cat, toNat_cat, BitVec.toNat_ofNat]
  omega

/-- The 64-bit field by its base-256 digits. -/
theorem pktField_toNat (c : Catalog) (p : PacketParams) :
    (pktField c p).toNat = (pktPre p.mant p.exp).toNat * 2 ^ 48 + (hdrCode c p.hdr).toNat * 2 ^ 40 +
      p.len.toNat * 2 ^ 32 + (crcCode c p.crc).toNat * 2 ^ 24 + (iqCode c p.iq).toNat * 2 ^ 16 := by
  simp only [pktField, toNat_cat, BitVec.toNat_ofNat]
  omega

/-- The 64-bit field on the wire (R133). -/
theorem be64_pktField (c : Catalog) (p : PacketParams) : be64 (pktField c p) = 0 :: pktPack c p :=
  be64_of_digits _ 0 _ _ _ _ _ 0 0 (by rw [pktField_toNat]; simp)

/-- The pad byte leaves bits 63:56 zero (R133). -/
theorem pktField_lt (c : Catalog) (p : PacketParams) : (pktField c p).toNat < 2 ^ 56 := by
  rw [pktField_toNat]
  omega

/-- The two reserved bytes leave bits 15:0 zero (R133). -/
theorem pktField_low (c : Catalog) (p : PacketParams) : (pktField c p).toNat % 2 ^ 16 = 0 := by
  rw [pktField_toNat]
  omega

/-! ## The preamble byte (R130) -/

/-- The two nibbles do not overlap, so their union is their sum. -/
theorem pktPre_toNat (mant exp : Byte) : (pktPre mant exp).toNat = exp.toNat % 16 * 16 + mant.toNat % 16 := by
  have hm : mant.toNat &&& 15 = mant.toNat % 16 := Nat.and_two_pow_sub_one_eq_mod _ 4
  have he : exp.toNat <<< 4 % 2 ^ 8 = (exp.toNat % 16) <<< 4 := by
    rw [Nat.shiftLeft_eq, Nat.shiftLeft_eq]
    omega
  calc (pktPre mant exp).toNat
    _ = (mant.toNat &&& 15) ||| exp.toNat <<< 4 % 2 ^ 8 := rfl
    _ = (exp.toNat % 16) <<< 4 ||| mant.toNat % 16 := by rw [hm, he, Nat.or_comm]
    _ = exp.toNat % 16 * 16 + mant.toNat % 16 := by
      rw [← Nat.shiftLeft_add_eq_or_of_lt (Nat.mod_lt _ (by decide)), Nat.shiftLeft_eq]

/-! ## Unions of bits (R62, R64) -/

/-- A union of single bits has the bits it is made of and no other. -/
theorem getLsbD_union {α : Type} {w : Nat} (bit : α → Fin w) (members : List α) (n : Fin w) :
    (members.foldr (fun a acc => 1#w <<< (bit a).val ||| acc) 0).getLsbD n.val = true ↔ ∃ a ∈ members, bit a = n := by
  induction members with
  | nil => simp
  | cons a members ih =>
    rw [List.foldr_cons, BitVec.getLsbD_or, Bool.or_eq_true, ih, ← BitVec.twoPow_eq, BitVec.getLsbD_twoPow]
    simp [Fin.ext_iff]

/-! ## The mode look-up (R63, R141) -/

/-- The sub-field, of at most eight bits, as a number. -/
theorem modeBits_toNat (c : Catalog) (status : Byte) :
    (modeBits c status).toNat = status.toNat / 2 ^ c.modeLo.val % 2 ^ (c.modeHi.val + 1 - c.modeLo.val) := by
  have hle : c.modeHi.val + 1 - c.modeLo.val ≤ 8 := by omega
  rw [modeBits, BitVec.toNat_setWidth_of_le hle, BitVec.extractLsb'_toNat, Nat.shiftRight_eq_div_pow]

/-- What the look-up answers: a member with the sub-field's code, or the code when no member has it. -/
theorem statMode_cases (c : Catalog) (status : Byte) :
    (∃ k ∈ modeMembers c, statMode c status = .known k ∧ c.modeCode k = modeBits c status) ∨
    (statMode c status = .unknown (modeBits c status) ∧ ∀ k ∈ modeMembers c, c.modeCode k ≠ modeBits c status) := by
  cases hfind : (modeMembers c).find? (fun m => c.modeCode m == modeBits c status) with
  | some k =>
    have hcode : c.modeCode k = modeBits c status := by simpa using List.find?_some hfind
    exact .inl ⟨k, List.mem_of_find?_eq_some hfind, by rw [statMode, hfind], hcode⟩
  | none => exact .inr ⟨by rw [statMode, hfind], by simpa using hfind⟩

/-! ## The calibration byte (R142) -/

/-- The sub-blocks in the order of R142. -/
def calBlocks : List CalBlock := [.rc64k, .rc13m, .pll, .adcPulse, .adcBulkN, .adcBulkP]

theorem mem_calBlocks (b : CalBlock) : b ∈ calBlocks := by cases b <;> decide

/-- The sub-blocks take the first six of the eight places. -/
theorem exists_calPlace_iff (i : Fin 8) : (∃ b ∈ calBlocks, calPlace b = i) ↔ i.val < 6 := by
  revert i
  decide

theorem calAll_getLsbD (c : Catalog) (n : Fin 8) :
    (calAll c).getLsbD n.val = true ↔ ∃ b ∈ calBlocks, calBit c b = n :=
  getLsbD_union (calBit c) calBlocks n

/-- Position `calPerm i` of the byte is set exactly when a sub-block has place `i`. -/
theorem calAll_getLsbD_calPerm (c : Catalog) (i : Fin 8) :
    (calAll c).getLsbD (c.calPerm i).val = true ↔ i.val < 6 := by
  simp only [calAll_getLsbD, calBit, c.calPerm.injective.eq_iff, exists_calPlace_iff]

/-- Counting the bits in the order of the permutation counts the places below six. -/
theorem calAll_countP (c : Catalog) : (List.range 8).countP (fun n => (calAll c).getLsbD n) = 6 :=
  calc (List.range 8).countP (fun n => (calAll c).getLsbD n)
    _ = (List.finRange 8).countP (fun n => (calAll c).getLsbD n.val) := by
      rw [← List.map_coe_finRange_eq_range, List.countP_map]
      rfl
    _ = (List.finRange 8).countP (fun i => (calAll c).getLsbD (c.calPerm i).val) := by
      rw [← c.calPerm.map_finRange_perm.countP_eq, List.countP_map]
      rfl
    _ = (List.finRange 8).countP (fun i => decide (i.val < 6)) :=
      List.countP_congr fun i _ => by rw [calAll_getLsbD_calPerm, decide_eq_true_iff]
    _ = 6 := by decide

/-! ## The obligations -/

/-- Settles O37: the top byte is the zero pad, so the number has 24 bits. -/
theorem modFieldIsPaddedPack : Obligations.ModFieldIsPaddedPack := fun _ _ _ _ =>
  ⟨_, rfl, be32_modField _ _, modField_lt _ _⟩

/-- Settles O39: the exponent's high nibble falls off the shift. -/
theorem pktPrePacksNibbles : Obligations.PktPrePacksNibbles := fun mant exp _ => ⟨_, rfl, pktPre_toNat mant exp⟩

/-- Settles O41: the top byte is the zero pad, the low two are the reserved zero bytes. -/
theorem pktFieldIsPaddedPack : Obligations.PktFieldIsPaddedPack := fun _ _ _ _ _ _ _ =>
  ⟨_, rfl, be64_pktField _ _, pktField_lt _ _, pktField_low _ _⟩

/-- Settles O43: the mask is a union of single bits. -/
theorem irqOrSetsExactlyTheFlags : Obligations.IrqOrSetsExactlyTheFlags := fun flags _ =>
  ⟨_, rfl, getLsbD_union Config.catalog.irqBit flags⟩

/-- Settles O44, by whether the look-up finds a member. -/
theorem statModeLooksUpSubfield : Obligations.StatModeLooksUpSubfield := fun status _ =>
  ⟨_, _, rfl, modeBits_toNat _ status, statMode_cases _ status⟩

/-- Settles O45: a bit for each sub-block, and the count along the permutation. -/
theorem calAllSetsExactlySixBits : Obligations.CalAllSetsExactlySixBits := fun _ =>
  ⟨_, rfl, fun b => (calAll_getLsbD _ _).2 ⟨b, mem_calBlocks b, rfl⟩, calAll_countP _⟩

/-- Settles O36: the pins are equations of the code tables. -/
theorem modPackGivesCodes : Obligations.ModPackGivesCodes := ⟨fun _ _ _ _ => rfl, fun _ => ⟨rfl, rfl, rfl⟩⟩

/-- Settles O38, by the eight factors. -/
theorem modFecBySpreadingFactor : Obligations.ModFecBySpreadingFactor := by
  intro sf s
  cases sf <;> rfl

/-- Settles O40: the pins are equations of the code tables. -/
theorem pktPackLaysOutSevenBytes : Obligations.PktPackLaysOutSevenBytes :=
  ⟨fun _ _ _ _ _ _ _ => rfl, fun _ => ⟨rfl, rfl, rfl⟩⟩

/-- Settles O42: the pair is kept as given. -/
theorem txpMakeIsOpaquePair : Obligations.TxpMakeIsOpaquePair := fun _ _ _ => rfl

/-- Settles O46: neither packer reads the sync word. -/
theorem syncWordNotEncoded : Obligations.SyncWordNotEncoded := fun _ _ _ => ⟨fun _ => ⟨rfl, rfl⟩, rfl⟩

end Sys2Proof.Machine

/-! The host sequences: what the idle host does with the response it awaits and with its next step, how a stretch of
operations is carried from one step of a sequence to another, and every sequence from its call to its return. -/

namespace Sys2Proof.Machine

/-! ## The host's move in a sequence (R159, R161) -/

section SequenceStep

variable {s : State} {todo : List SeqStep} {got : Gathered}

/-- The step of an idle machine with a sequence in progress is the sequence's move. -/
theorem step_sequence {q : SeqRun} (hi : s.phase = .idle) (hp : s.port = none) (hq : s.seq = some q) :
    step s = .next (passSample (seqMove Config.catalog s.pins q s)) := by
  rw [step_idle hp hi, hostMove_seq hq]

/-- An awaited `Ok` is taken, its bytes kept by what the operation was issued for, and `RSP` is empty (R11). -/
theorem step_takes_ok {k : Collect} {bytes : List Byte} (hi : s.phase = .idle) (hp : s.port = none)
    (hq : s.seq = some ⟨todo, some k, got⟩) (hr : s.rsp = some (.ok bytes)) :
    step s = .next { s with
      rsp := none, seq := some ⟨todo, none, got.take Config.catalog k bytes⟩, env := s.env.tail, tick := s.tick + 1 } := by
  rw [step_sequence hi hp hq]
  simp [seqMove, hr, State.clearResponse, passSample]

/-- With nothing left to do the sequence returns success with what it has read (R150, R157). -/
theorem step_returns (hi : s.phase = .idle) (hp : s.port = none) (hq : s.seq = some ⟨[], none, got⟩) :
    step s = .next { s with
      seq := none, seqResult := some (.success got), env := s.env.tail, tick := s.tick + 1 } :=
  step_sequence hi hp hq

/-- The step `st` of a sequence that has read `got` requests the operation `d` and awaits its response for `k`. -/
def Requests (st : SeqStep) (got : Gathered) (d : FramedOp) (k : Collect) : Prop :=
  ∀ p rest s, issueStep Config.catalog p st rest got s = issueOp d k rest got s

theorem requests_op (d : FramedOp) (k : Collect) (got : Gathered) : Requests (.op d k) got d k := fun _ _ _ => rfl

/-- The clear is a command with exactly the bytes observed (R157 step 9). -/
theorem requests_clearIrq (got : Gathered) :
    Requests .clearIrq got (.cmd Config.catalog.opcClrIrqStatus got.irq 0) .ignore := fun _ _ _ => rfl

/-- The payload is read where the RX buffer status says (R158). -/
theorem requests_fetchPayload (got : Gathered) :
    Requests .fetchPayload got (.bufr (Config.catalog.rxOff got.rxBuf) (Config.catalog.rxLen got.rxBuf)) .payload :=
  fun _ _ _ => rfl

/-- A step that requests an operation has it accepted by the idle engine (R87). -/
theorem step_requests {st : SeqStep} {d : FramedOp} {k : Collect} (hd : Requests st got d k) (hi : s.phase = .idle)
    (hp : s.port = none) (hq : s.seq = some ⟨st :: todo, none, got⟩) :
    step s = .next { taken (Latches.hold d) s with
      seq := some ⟨todo, some k, got⟩, env := s.env.tail, tick := s.tick + 1 } := by
  rw [step_sequence hi hp hq]
  exact congrArg (fun t => Host.Outcome.next (passSample t)) (hd s.pins todo s)

/-- At the interrupt wait a low line lets one sample pass and nothing else (R161). -/
theorem step_irq_low (hi : s.phase = .idle) (hp : s.port = none) (hq : s.seq = some ⟨.waitIrq :: todo, none, got⟩)
    (hl : s.pins.irq = .low) : step s = .next (passSample s) := by
  rw [step_sequence hi hp hq]
  simp [seqMove, issueStep, hl]

/-- A high line ends the interrupt wait (R161). -/
theorem step_irq_high (hi : s.phase = .idle) (hp : s.port = none) (hq : s.seq = some ⟨.waitIrq :: todo, none, got⟩)
    (hh : s.pins.irq = .high) :
    step s = .next { s with seq := some ⟨todo, none, got⟩, env := s.env.tail, tick := s.tick + 1 } := by
  rw [step_sequence hi hp hq]
  simp [seqMove, issueStep, hh, passSample]

end SequenceStep

/-- Settles O53: an error is taken before any later step is looked at. -/
theorem sequenceAbortsAtFirstError : Obligations.SequenceAbortsAtFirstError := by
  intro s todo k got e hi hp hq hr
  rw [step_sequence hi hp hq]
  simp [seqMove, hr, State.clearResponse, passSample]

/-- Settles O55: the operation the clear requests has the observed bytes for its input. -/
theorem clearWritesObservedBits : Obligations.ClearWritesObservedBits := fun _ _ got hi hp hq =>
  step_requests (requests_clearIrq got) hi hp hq

/-- Settles O57: the requests of a sequence, what each response is kept as, and the return. -/
theorem receiveFetchesReportedPayload : Obligations.ReceiveFetchesReportedPayload := by
  refine ⟨fun s todo got hi hp hq => step_requests (requests_fetchPayload got) hi hp hq,
    fun s d k todo got hi hp hq => step_requests (requests_op d k got) hi hp hq, ?_,
    fun s got hi hp hq => step_returns hi hp hq⟩
  intro s bytes todo got hi hp hr k kept hk hq
  have hkept : kept = got.take Config.catalog k bytes := by
    simp only [List.mem_cons, List.not_mem_nil, or_false, Prod.mk.injEq] at hk
    rcases hk with ⟨rfl, rfl⟩ | ⟨rfl, rfl⟩ | ⟨rfl, rfl⟩ | ⟨rfl, rfl⟩ | ⟨rfl, rfl⟩ | ⟨rfl, rfl⟩ <;> rfl
  rw [hkept]
  exact step_takes_ok hi hp hq hr

/-- Settles O54: by induction on the stretch, each sample of which is let pass with nothing else changed. -/
theorem interruptLowHoldsForEver : Obligations.InterruptLowHoldsForEver := by
  intro s todo got ps
  induction ps generalizing s with
  | nil =>
    rintro rest - - - rfl -
    rfl
  | cons p ps ih =>
    intro rest hi hp hq he hl
    have hlow : s.pins.irq = .low := by rw [pins_of_env he]; exact hl p (by simp)
    have hrest := ih (passSample s) rest hi hp hq (by simp [he]) (fun r hr => hl r (by simp [hr]))
    rw [List.length_cons, run_succ (step_irq_low hi hp hq hlow), hrest]
    simp [passSample, Nat.add_assoc, Nat.add_comm 1]

/-! ## The receive design (R158) -/

/-- Putting an entry in at a place leaves what stood before it and after it. -/
theorem insertIdx_eq_take_append_drop {α : Type} (x : α) (l : List α) (n : Nat) (h : n ≤ l.length) :
    l.insertIdx n x = l.take n ++ [x] ++ l.drop n := by
  induction l generalizing n with
  | nil =>
    obtain rfl : n = 0 := Nat.le_zero.mp h
    rfl
  | cons a l ih =>
    cases n with
    | zero => rfl
    | succ n => simpa using ih n (Nat.le_of_succ_le_succ h)

/-- Settles O56: the first step of the design is requested as it is begun; the IRQ status read stands where the catalog
puts it, the steps before and after it being those of the list it is put into. -/
theorem receiveStepsInOrder : Obligations.ReceiveStepsInOrder := by
  refine ⟨fun s continuous items hi hp hq hr hg => ⟨_, _, rfl, ?_⟩, fun c continuous => ⟨_, rfl, ?_⟩⟩
  · rw [step_idle hp hi, hostMove_program hq hr]
    simp only [programMove, hg]
    rfl
  · have hslot := Nat.le_of_lt_succ c.rxIrqSlot.isLt
    refine ⟨_, _, ?_, List.take_append_drop c.rxIrqSlot.val _⟩
    rw [receiveSteps, insertIdx_eq_take_append_drop _ _ _ hslot]
    simp [dioMaskSteps, routing, plainCmd, irqReadStep]

/-! ## Parts of a schedule -/

theorem exists_split {α : Type} {l : List α} {m : Nat} (h : m ≤ l.length) : ∃ a b, l = a ++ b ∧ a.length = m :=
  ⟨_, _, (List.take_append_drop m l).symm, List.length_take_of_le h⟩

theorem exists_snoc {α : Type} {l : List α} {m : Nat} (h : l.length = m + 1) : ∃ a x, l = a ++ [x] ∧ a.length = m := by
  obtain ⟨a, b, rfl, ha⟩ := exists_split (show m ≤ l.length by omega)
  obtain ⟨x, rfl⟩ := List.length_eq_one_iff.mp (show b.length = 1 by rw [List.length_append] at h; omega)
  exact ⟨a, x, rfl, ha⟩

/-! ## Between two steps of a sequence -/

/-- What a sequence's operations have left behind so far: the last one's latches, frame, bytes read and bytes gone out
meanwhile, all their events, and what has been read. -/
structure Trail where
  latches : Latches
  frame   : Frame
  out     : List Byte
  fill    : List Byte
  events  : List Event
  got     : Gathered

/-- The trail of a sequence after its first operation, one that reads nothing. -/
def Trail.first (d : FramedOp) : Trail :=
  ⟨Latches.hold d, frameOf d, [], [], doneEvents (frameOf d) [], Gathered.empty⟩

/-- One operation more, issued for `k`. -/
def Trail.add (w : Trail) (d : FramedOp) (k : Collect) (out fill : List Byte) : Trail :=
  ⟨Latches.hold d, frameOf d, out, fill, w.events ++ doneEvents (frameOf d) out, w.got.take Config.catalog k out⟩

/-- The state between two steps of a sequence: the one `returned` describes but for the return itself, `todo` being left
and nothing awaited. -/
def between (w : Trail) (todo : List SeqStep) (rest : List Pins) (n : Nat) (s : State) : State :=
  { returned w.latches w.frame w.out w.fill w.events w.got rest n s with
    seq := some ⟨todo, none, w.got⟩, seqResult := s.seqResult }

/-- From `s`, `n` steps lead between two steps of the sequence, with this trail, these steps to do and this schedule left. -/
def Reached (w : Trail) (todo : List SeqStep) (rest : List Pins) (n : Nat) (s : State) : Prop :=
  run n s = .next (between w todo rest n s)

/-- A state in which a sequence awaits the response of the operation `d` that it has requested for `k`. -/
structure Awaiting (d : FramedOp) (k : Collect) (todo : List SeqStep) (got : Gathered) (s : State) : Prop where
  waiting : s.phase = .preWait
  latches : s.latches = Latches.hold d
  unread  : s.rbuf = []
  flight  : s.seq = some ⟨todo, some k, got⟩

/-- An awaited operation is carried out and its response taken. -/
theorem Awaiting.run {d : FramedOp} {k : Collect} {todo : List SeqStep} {got : Gathered} {s : State}
    (h : Awaiting d k todo got s) (hp : s.port = none) {ps rest : List Pins} (he : s.env = ps ++ rest)
    (hl : ps.length = frameTime (frameOf d) + 1) (hc : ∀ p ∈ ps, Cooperative p) :
    ∃ out fill, out.length = (frameOf d).reads ∧ fill.length = (frameOf d).reads ∧
      Reached ⟨Latches.hold d, frameOf d, out, fill, doneEvents (frameOf d) out, got.take Config.catalog k out⟩
        todo rest (frameTime (frameOf d) + 1) s := by
  obtain ⟨hw, hlat, hr, hq⟩ := h
  obtain ⟨qs, p, rfl, hqs⟩ := exists_snoc hl
  have hf : s.latches.frame = some (frameOf d) := by rw [hlat, hold_frame]
  obtain ⟨fill, hfill, hout, hrun⟩ := carriedOut_of_preWait hf hw hr qs (p :: rest) hp (by simpa using he) hqs
    (fun r hmem => hc r (by simp [hmem]))
  have htake := step_takes_ok (s := ended (frameOf d) (readPart (frameOf d) qs) fill (p :: rest) s) rfl hp hq rfl
  refine ⟨_, fill, hout, hfill, (run_add hrun).trans ((run_one htake).trans ?_)⟩
  simp [ended, between, returned, hlat, Nat.add_assoc]

/-- The call of a sequence whose first operation reads nothing leads between its first two steps. -/
theorem reached_first {d : FramedOp} {todo : List SeqStep} {s : State} (hd : (frameOf d).reads = 0)
    (hp : s.port = none) {ps rest : List Pins} (he : s.env = ps ++ rest)
    (hl : ps.length = frameTime (frameOf d) + 1) (hc : ∀ p ∈ ps, Cooperative p) :
    Reached (.first d) todo rest (frameTime (frameOf d) + 1) (called d todo s) := by
  obtain ⟨out, fill, hout, hfill, h⟩ := Awaiting.run (s := called d todo s) ⟨rfl, rfl, rfl, rfl⟩ hp he hl hc
  obtain rfl : out = [] := List.eq_nil_of_length_eq_zero (hout.trans hd)
  obtain rfl : fill = [] := List.eq_nil_of_length_eq_zero (hfill.trans hd)
  exact h

section Reached

variable {w : Trail} {todo : List SeqStep} {rest : List Pins} {n : Nat} {s : State}

/-- The next step's operation is requested, carried out and its response taken. -/
theorem Reached.operation {st : SeqStep} {d : FramedOp} {k : Collect} {ps : List Pins}
    (h : Reached w (st :: todo) (ps ++ rest) n s) (hd : Requests st w.got d k) (hp : s.port = none)
    (hl : ps.length = frameTime (frameOf d) + 2) (hc : ∀ p ∈ ps, Cooperative p) :
    ∃ out fill, out.length = (frameOf d).reads ∧ fill.length = (frameOf d).reads ∧
      Reached (w.add d k out fill) todo rest (n + (frameTime (frameOf d) + 2)) s := by
  obtain ⟨p, qs, rfl⟩ := List.exists_cons_of_length_eq_add_one hl
  have hissue := step_requests (s := between w (st :: todo) (p :: qs ++ rest) n s) hd rfl hp rfl
  obtain ⟨out, fill, hout, hfill, hrun⟩ := Awaiting.run (s := { taken (Latches.hold d)
      (between w (st :: todo) (p :: qs ++ rest) n s) with
      seq := some ⟨todo, some k, w.got⟩, env := qs ++ rest, tick := s.tick + n + 1 })
    ⟨rfl, rfl, rfl, rfl⟩ hp rfl (by simpa using hl) (fun r hmem => hc r (by simp [hmem]))
  refine ⟨out, fill, hout, hfill, (run_add h).trans ((run_succ hissue).trans (hrun.trans ?_))⟩
  simp [between, returned, taken, Trail.add, Nat.add_assoc, Nat.add_comm 1]

/-- A stretch of samples with the interrupt line low passes at the wait. -/
theorem Reached.irq_low {low : List Pins} (h : Reached w (.waitIrq :: todo) (low ++ rest) n s) (hp : s.port = none)
    (hl : ∀ p ∈ low, p.irq = .low) : Reached w (.waitIrq :: todo) rest (n + low.length) s := by
  have hhold := interruptLowHoldsForEver (between w (.waitIrq :: todo) (low ++ rest) n s) todo w.got low rest rfl hp rfl rfl hl
  refine (run_add h).trans (hhold.trans ?_)
  simp [between, returned, Nat.add_assoc]

/-- A sample with the interrupt line high ends the wait. -/
theorem Reached.irq_high {p : Pins} (h : Reached w (.waitIrq :: todo) (p :: rest) n s) (hp : s.port = none)
    (hh : p.irq = .high) : Reached w todo rest (n + 1) s :=
  (run_add h).trans (run_one (step_irq_high rfl hp rfl hh))

/-- After the last step the sequence returns. -/
theorem Reached.returns {p : Pins} (h : Reached w [] (p :: rest) n s) (hp : s.port = none) :
    run (n + 1) s = .next (returned w.latches w.frame w.out w.fill w.events w.got rest (n + 1) s) :=
  (run_add h).trans (run_one (step_returns rfl hp rfl))

end Reached

/-! ## A stretch of operations -/

/-- The operations `ops` lead from one trail to another, each having read as many bytes as its frame asks for. -/
inductive Played : List (FramedOp × Collect) → Trail → Trail → Prop where
  | nil (w : Trail) : Played [] w w
  | cons {d : FramedOp} {k : Collect} {ops : List (FramedOp × Collect)} {w v : Trail} (out fill : List Byte)
      (hout : out.length = (frameOf d).reads) (hfill : fill.length = (frameOf d).reads)
      (h : Played ops (w.add d k out fill) v) : Played ((d, k) :: ops) w v

/-- The steps of a sequence that issue these operations. -/
def opSteps (ops : List (FramedOp × Collect)) : List SeqStep := ops.map fun o => .op o.1 o.2

/-- A stretch of operations is played, one after the other. -/
theorem Reached.operations {todo : List SeqStep} {rest : List Pins} {s : State} (ops : List (FramedOp × Collect))
    {w : Trail} {ps : List Pins} {n : Nat} (h : Reached w (opSteps ops ++ todo) (ps ++ rest) n s) (hp : s.port = none)
    (hl : ps.length = seqTime (opSteps ops)) (hc : ∀ p ∈ ps, Cooperative p) :
    ∃ v, Played ops w v ∧ Reached v todo rest (n + ps.length) s := by
  induction ops generalizing w ps n with
  | nil =>
    obtain rfl : ps = [] := List.eq_nil_of_length_eq_zero hl
    exact ⟨w, .nil w, h⟩
  | cons o ops ih =>
    have htime : ps.length = frameTime (frameOf o.1) + 2 + seqTime (opSteps ops) := hl
    obtain ⟨qs, more, rfl, hqs⟩ := exists_split (show frameTime (frameOf o.1) + 2 ≤ ps.length by omega)
    have hmore : more.length = seqTime (opSteps ops) := by rw [List.length_append] at htime; omega
    rw [List.append_assoc] at h
    obtain ⟨out, fill, hout, hfill, hfirst⟩ := Reached.operation h (requests_op o.1 o.2 w.got) hp hqs
      (fun r hmem => hc r (by simp [hmem]))
    obtain ⟨v, hplayed, hv⟩ := ih hfirst hmore (fun r hmem => hc r (by simp [hmem]))
    refine ⟨v, .cons out fill hout hfill hplayed, ?_⟩
    rw [List.length_append, hqs, ← Nat.add_assoc]
    exact hv

/-- The call of a sequence and the operations it begins with. -/
theorem reached_called {d : FramedOp} (hd : (frameOf d).reads = 0) (ops : List (FramedOp × Collect))
    {todo : List SeqStep} {s : State} (hp : s.port = none) {ps rest : List Pins} (he : s.env = ps ++ rest)
    (hl : ps.length + 1 = frameTime (frameOf d) + 2 + seqTime (opSteps ops)) (hc : ∀ p ∈ ps, Cooperative p) :
    ∃ w, Played ops (.first d) w ∧ Reached w todo rest ps.length (called d (opSteps ops ++ todo) s) := by
  obtain ⟨qs, more, rfl, hqs⟩ := exists_split (show frameTime (frameOf d) + 1 ≤ ps.length by omega)
  rw [List.length_append] at hl ⊢
  rw [List.append_assoc] at he
  have hfirst := reached_first (todo := opSteps ops ++ todo) hd hp he hqs (fun r hmem => hc r (by simp [hmem]))
  rw [hqs]
  exact Reached.operations ops hfirst hp (by omega) (fun r hmem => hc r (by simp [hmem]))

/-! ## Sequences of writes -/

/-- The trail of a sequence in which operations of the frames `fs`, none of which reads, have been carried out. -/
structure Trail.Wrote (fs : List Frame) (w : Trail) : Prop where
  latched : w.latches.frame = some w.frame
  last    : fs.getLast? = some w.frame
  out     : w.out = []
  fill    : w.fill = []
  events  : w.events = fs.flatMap fun f => doneEvents f []
  got     : w.got = Gathered.empty

theorem Trail.wrote_first (d : FramedOp) : (Trail.first d).Wrote [frameOf d] :=
  ⟨hold_frame d, rfl, rfl, rfl, (List.append_nil _).symm, rfl⟩

theorem Trail.Wrote.add {fs : List Frame} {w : Trail} (h : w.Wrote fs) (d : FramedOp) :
    (w.add d .ignore [] []).Wrote (fs ++ [frameOf d]) where
  latched := hold_frame d
  last := by simp [Trail.add]
  out := rfl
  fill := rfl
  events := by simp [Trail.add, h.events]
  got := h.got

/-- Operations that read nothing and whose responses are only checked add their frames. -/
theorem Played.wrote {ds : List FramedOp} {fs : List Frame} {w v : Trail} (h : Played (ds.map (·, .ignore)) w v)
    (hd : ∀ d ∈ ds, (frameOf d).reads = 0) (hw : w.Wrote fs) : v.Wrote (fs ++ ds.map frameOf) := by
  induction ds generalizing fs w with
  | nil =>
    cases h
    simpa using hw
  | cons d ds ih =>
    obtain ⟨hd, hds⟩ := List.forall_mem_cons.mp hd
    cases h with
    | cons out fill hout hfill h =>
      obtain rfl : out = [] := List.eq_nil_of_length_eq_zero (hout.trans hd)
      obtain rfl : fill = [] := List.eq_nil_of_length_eq_zero (hfill.trans hd)
      simpa using ih h hds (hw.add d)

/-- The steps that issue operations whose responses are only checked. -/
def writeSteps (ds : List FramedOp) : List SeqStep := opSteps (ds.map (·, .ignore))

theorem seqTime_writeSteps (ds : List FramedOp) : seqTime (writeSteps ds) = framesTime (ds.map frameOf) := by
  simp [seqTime, framesTime, writeSteps, opSteps, stepTime, Function.comp_def]

/-- A called sequence of operations that read nothing is carried to its return. -/
theorem sequenceReturns_writes (d : FramedOp) (ds : List FramedOp) (hd : ∀ e ∈ d :: ds, (frameOf e).reads = 0) (s : State) :
    SequenceReturns ((d :: ds).map frameOf) (called d (writeSteps ds) s) := by
  obtain ⟨hfirst, hds⟩ := List.forall_mem_cons.mp hd
  intro ps rest hp he hl hc
  have htime : framesTime ((d :: ds).map frameOf) = frameTime (frameOf d) + 2 + seqTime (writeSteps ds) := by
    rw [seqTime_writeSteps]; rfl
  obtain ⟨qs, p, rfl, hqs⟩ := exists_snoc (show ps.length = (framesTime ((d :: ds).map frameOf) - 1) + 1 by omega)
  obtain ⟨w, hplayed, hrun⟩ := reached_called (todo := []) (rest := p :: rest) hfirst (ds.map (·, .ignore)) hp
    (by simpa using he) (by change _ = _ + seqTime (writeSteps ds); omega) (fun r hmem => hc r (by simp [hmem]))
  rw [List.append_nil] at hrun
  obtain ⟨hlatched, hlast, hout, hfill, hevents, hgot⟩ := hplayed.wrote hds (Trail.wrote_first d)
  refine ⟨w.latches, w.frame, hlatched, hlast, ?_⟩
  have hreturn := hrun.returns hp
  rw [show qs.length + 1 = framesTime ((d :: ds).map frameOf) by omega, hout, hfill, hevents, hgot] at hreturn
  exact hreturn

/-! ## The sequences -/

/-- A sequence whose first step is an operation only checked is called by an idle host (R71). -/
theorem startSeq_called (d : FramedOp) (todo : List SeqStep) {s : State} (hi : s.phase = .idle) (hq : s.seq = none) :
    startSeq (.op d .ignore :: todo) s = .next (called d todo s) := by
  simp only [startSeq, hi, hq, if_true]
  rfl

/-- The modulation bytes on the wire, padded or not (R153, D12). -/
theorem modInput_eq (c : Catalog) (m : ModulationParams) :
    modInput c m = (if c.padOnWire then [0x00] else []) ++ modPack c m := by
  cases h : c.padOnWire <;> simp [modInput, h, be32_modField]

/-- The packet bytes on the wire, padded or not (R154, D12). -/
theorem pktInput_eq (c : Catalog) (p : PacketParams) :
    pktInput c p = (if c.padOnWire then [0x00] else []) ++ pktPack c p := by
  cases h : c.padOnWire <;> simp [pktInput, h, be64_pktField]

/-- Settles O47: one command, nothing left to do after it. -/
theorem setfreqRuns : Obligations.SetfreqRuns := fun _ s hi hq =>
  ⟨startSeq_called _ [] hi hq, sequenceReturns_writes (.cmd _ _ 0) [] (by simp [frameOf]) s⟩

/-- Settles O49: one command, nothing left to do after it. -/
theorem setpktRuns : Obligations.SetpktRuns := fun p s hi hq =>
  ⟨_, pktInput_eq _ p, startSeq_called _ [] hi hq, sequenceReturns_writes (.cmd _ _ 0) [] (by simp [frameOf]) s⟩

/-- Settles O50: one command, nothing left to do after it. -/
theorem calibrateRuns : Obligations.CalibrateRuns := fun s hi hq =>
  ⟨startSeq_called _ [] hi hq, sequenceReturns_writes (.cmd _ _ 0) [] (by simp [frameOf]) s⟩

/-- The two workaround writes (R125, R203). -/
def workaroundWrites (c : Catalog) (sf : SpreadingFactor) : List FramedOp :=
  [.regw c.fecRegAddr [modFec c sf], .regw c.fecCorrAddr c.fecCorrValue]

/-- Settles O48: the command and the two workaround writes after it. -/
theorem setmodRuns : Obligations.SetmodRuns := fun sf bw cr s hi hq =>
  ⟨modInput Config.catalog ⟨sf, bw, cr⟩, _, modInput_eq _ _, startSeq_called _ _ hi hq,
    sequenceReturns_writes (.cmd _ _ 0) (workaroundWrites Config.catalog sf) (by simp [workaroundWrites, frameOf]) s⟩

/-- What `CONFIGURE` issues after standby (R150). -/
def configureWrites (c : Catalog) (m : ModemParams) : List FramedOp :=
  [.cmd c.opcSetRfFrequency (freqAsBytes m.freq) 0, .cmd c.opcSetPacketType [c.loraCode] 0,
    .cmd c.opcSetModulationParams (modInput c m.mod) 0] ++
  workaroundWrites c m.mod.sf ++
  [.cmd c.opcSetPacketParams (pktInput c m.pkt) 0,
    .cmd c.opcSetTxParams (c.txpBytes m.tx.power (c.rampCode m.tx.ramp)) 0]

/-- Settles O51: standby and the seven writes after it. -/
theorem configureRuns : Obligations.ConfigureRuns := fun m s hi hq =>
  ⟨_, _, _, modInput_eq _ m.mod, pktInput_eq _ m.pkt, startSeq_called _ _ hi hq,
    sequenceReturns_writes (.cmd _ _ 0) (configureWrites Config.catalog m)
      (by simp [configureWrites, workaroundWrites, frameOf]) s⟩

/-! ## SEND (R157) -/

/-- The mask bytes of `SEND` (R140, R157 step 4). -/
def sendMasks (c : Catalog) : List Byte :=
  c.maskBytes (irqOr c [.txDone, .rxTxTimeout, .crcError])
    (if c.primaryDio = 0 then irqOr c [.txDone, .rxTxTimeout, .crcError] else 0)
    (if c.primaryDio = 1 then irqOr c [.txDone, .rxTxTimeout, .crcError] else 0)
    (if c.primaryDio = 2 then irqOr c [.txDone, .rxTxTimeout, .crcError] else 0)

/-- What `SEND` issues between the buffer base and the interrupt wait (R157). -/
def sendOps (c : Catalog) (payload : List Byte) : List (FramedOp × Collect) :=
  [(.bufw 0x00 payload, .ignore), (.cmd c.opcGetStatus [] c.statusLen, .status),
    (.cmd c.opcSetDioIrqParams (sendMasks c) 0, .ignore), (.cmd c.opcSetTx c.txSingleShot 0, .ignore),
    (.cmd c.opcGetStatus [] c.statusLen, .status)]

theorem sendSteps_eq (c : Catalog) (payload : List Byte) :
    sendSteps c payload =
      .op (.cmd c.opcSetBufferBaseAddress [0x00, 0x00] 0) .ignore ::
        (opSteps (sendOps c payload) ++ [.waitIrq, irqReadStep c, .clearIrq]) := by
  simp [sendSteps, sendOps, sendMasks, opSteps, plainCmd, statusSteps, dioMaskSteps, routing, eq_comm (b := c.primaryDio)]

/-- The trail of `SEND` at the interrupt wait, `st1` and `st2` being the status bytes read (R157 steps 3 and 6). -/
theorem Played.send {payload : List Byte} {w : Trail}
    (h : Played (sendOps Config.catalog payload) (.first (.cmd Config.catalog.opcSetBufferBaseAddress [0x00, 0x00] 0)) w) :
    ∃ st1 st2 : List Byte, st1.length = Config.catalog.statusLen ∧ st2.length = Config.catalog.statusLen ∧
      w.got = { Gathered.empty with diag := [st1.map (statMode Config.catalog), st2.map (statMode Config.catalog)] } ∧
      w.events =
        doneEvents ⟨[Config.catalog.opcSetBufferBaseAddress], [0x00, 0x00], 0⟩ [] ++
        doneEvents ⟨[0x1A, 0x00], payload, 0⟩ [] ++
        doneEvents ⟨[Config.catalog.opcGetStatus], [], Config.catalog.statusLen⟩ st1 ++
        doneEvents ⟨[Config.catalog.opcSetDioIrqParams], sendMasks Config.catalog, 0⟩ [] ++
        doneEvents ⟨[Config.catalog.opcSetTx], Config.catalog.txSingleShot, 0⟩ [] ++
        doneEvents ⟨[Config.catalog.opcGetStatus], [], Config.catalog.statusLen⟩ st2 := by
  obtain _ | ⟨out1, fill1, hout1, _, _ | ⟨st1, fill2, hst1, _, _ | ⟨out3, fill3, hout3, _, _ | ⟨out4, fill4, hout4, _,
    _ | ⟨st2, fill5, hst2, _, _ | _⟩⟩⟩⟩⟩ := h
  obtain rfl := List.eq_nil_of_length_eq_zero hout1
  obtain rfl := List.eq_nil_of_length_eq_zero hout3
  obtain rfl := List.eq_nil_of_length_eq_zero hout4
  exact ⟨st1, st2, hst1, hst2, rfl, rfl⟩

/-- After the interrupt wait the two bytes of IRQ status are read, cleared as read, and the sequence returns
(R157 steps 8 and 9). -/
theorem Reached.read_clear_return {w : Trail} {after rest : List Pins} {n : Nat} {s : State}
    (h : Reached w [irqReadStep Config.catalog, .clearIrq] (after ++ rest) n s) (hp : s.port = none)
    (hl : after.length = seqTime [irqReadStep Config.catalog, .clearIrq] + 1) (hc : ∀ p ∈ after, Cooperative p) :
    ∃ hi lo : Byte, run (n + after.length) s = .next
      (returned (Latches.hold (.cmd Config.catalog.opcClrIrqStatus [hi, lo] 0))
        ⟨[Config.catalog.opcClrIrqStatus], [hi, lo], 0⟩ [] []
        (w.events ++ doneEvents ⟨[Config.catalog.opcGetIrqStatus], [], 2⟩ [hi, lo] ++
          doneEvents ⟨[Config.catalog.opcClrIrqStatus], [hi, lo], 0⟩ [])
        { w.got with irq := [hi, lo] } rest (n + after.length) s) := by
  have hlen : after.length = 17 := hl
  obtain ⟨reading, clearing, p, rfl, hreading, hclearing⟩ : ∃ reading clearing p,
      after = reading ++ (clearing ++ [p]) ∧ reading.length = 8 ∧ clearing.length = 8 := by
    obtain ⟨reading, more, rfl, hreading⟩ := exists_split (show 8 ≤ after.length by omega)
    obtain ⟨clearing, p, rfl, hclearing⟩ := exists_snoc (m := 8) (l := more) (by rw [List.length_append] at hlen; omega)
    exact ⟨reading, clearing, p, rfl, hreading, hclearing⟩
  rw [List.append_assoc, List.append_assoc] at h
  obtain ⟨bits, fill, hbits, -, hread⟩ := h.operation (requests_op _ _ _) hp hreading
    (fun r hmem => hc r (by simp [hmem]))
  obtain ⟨hi, lo, rfl⟩ := List.length_eq_two.mp hbits
  obtain ⟨out, fill', hout, hfill', hclear⟩ := hread.operation (requests_clearIrq _) hp hclearing
    (fun r hmem => hc r (by simp [hmem]))
  obtain rfl := List.eq_nil_of_length_eq_zero hout
  obtain rfl := List.eq_nil_of_length_eq_zero hfill'
  refine ⟨hi, lo, ?_⟩
  rw [hlen]
  exact hclear.returns hp

/-- Settles O52: the operations before the wait, the low samples, the high one, and the read, the clear and the return
after it. -/
theorem sendRuns : Obligations.SendRuns := by
  intro payload s hi hq
  refine ⟨opSteps (sendOps Config.catalog payload) ++ [.waitIrq, irqReadStep Config.catalog, .clearIrq],
    sendMasks Config.catalog, rfl, ?_, ?_⟩
  · exact (congrArg (startSeq · s) (sendSteps_eq _ payload)).trans (startSeq_called _ _ hi hq)
  · intro before low after rest high hp he hbefore hafter hcb hlow hhigh hca
    rw [sendSteps_eq] at hbefore hafter
    obtain ⟨w, hplayed, hwait⟩ := reached_called (d := .cmd Config.catalog.opcSetBufferBaseAddress [0x00, 0x00] 0)
      (todo := [.waitIrq, irqReadStep Config.catalog, .clearIrq]) (rest := low ++ high :: (after ++ rest)) rfl
      (sendOps Config.catalog payload) hp (by simpa using he) hbefore hcb
    obtain ⟨st1, st2, hst1, hst2, hgot, hevents⟩ := hplayed.send
    obtain ⟨irqHi, irqLo, hrun⟩ := ((hwait.irq_low hp hlow).irq_high hp hhigh).read_clear_return hp hafter hca
    rw [hgot, hevents] at hrun
    exact ⟨st1, st2, irqHi, irqLo, hst1, hst2, hrun⟩

end Sys2Proof.Machine

/-! Exceptions: where a bus error in `RSP` can come from, and the refusal of a second caller. -/

namespace Sys2Proof.Machine

/-! ## A bus error in the response (R170 to R174) -/

section ResponseError

variable {s u : State} {e : BusErr}

/-- An error that stands in `RSP` after an instruction stood there before it: `exec` leaves the response, empties it or
answers `Ok([])`. -/
theorem rsp_err_of_exec {i : Instr} (hu : exec i s = .next u) (he : u.rsp = some (.err e)) :
    s.rsp = some (.err e) := by
  have hx := exec_executed i s
  rw [hu] at hx
  cases hx with
  | answers v => exact he
  | accepts d _ => simp at he
  | flushes _ => simp at he
  | begins d k rest _ _ => simp at he

/-- The host leaves the response or takes it; it never writes one (R27). -/
theorem rsp_err_of_hostMove {c : Catalog} {p : Pins} (he : (hostMove c p s).rsp = some (.err e)) :
    s.rsp = some (.err e) := by
  rcases hostMove_cases c p s with ⟨_, _, _, _, _, _, hm⟩ | ⟨rsp, _, _, _, _, _, _, _, hr, hm⟩ <;> rw [hm] at he
  · simp at he
  · rcases hr with rfl | rfl
    · exact he
    · simp at he

theorem preWaitMove_rsp (p : Pins) (s : State) : (preWaitMove p s).rsp = s.rsp := by
  rcases preWaitMove_cases p s with ⟨_, hm⟩ | ⟨_, hm⟩ <;> rw [hm]

/-- The answer of the post-wait is an `Ok` (R93). -/
theorem rsp_err_of_postWaitMove {p : Pins} (he : (postWaitMove p s).rsp = some (.err e)) :
    s.rsp = some (.err e) := by
  rcases postWaitMove_cases p s with ⟨_, hm⟩ | ⟨_, hm⟩ <;> rw [hm] at he
  · exact he
  · simp at he

/-- A bus event with an error in the response after it is the failure of the bus, or the error stood before (R172). -/
theorem busEvent_rsp_err {f : Frame} {p : Pins} (hle : s.idx ≤ f.out.length + f.reads)
    (he : (busEvent f p s).rsp = some (.err e)) :
    (p.bus = some e ∧ busEvent f p s = raiseBusError f e s) ∨ s.rsp = some (.err e) := by
  rcases busEvent_cases f p s hle with ⟨e', hb, hm⟩ | ⟨_, _, _, _, hm⟩ | ⟨_, _, _, hm⟩ | ⟨_, _, hm⟩
  · obtain rfl : e' = e := by simpa [hm] using he
    exact .inl ⟨hb, hm⟩
  · exact .inr (by simpa [hm] using he)
  · exact .inr (by simpa [hm] using he)
  · exact .inr (by simpa [hm] using he)

end ResponseError

/-- Settles O25: every move but the failure of a bus event has in its response only an error that stood there already. -/
theorem busErrorOnlyFromTransfer : Obligations.BusErrorOnlyFromTransfer := by
  intro s t e hs he hnew
  rcases step_cases hs with
    ⟨i, u, hu, rfl⟩ | ⟨_, _, rfl⟩ | ⟨_, _, rfl⟩ | ⟨_, _, rfl⟩ | ⟨hp, hx, f, _, hle, rfl⟩
  · exact absurd (rsp_err_of_exec hu he) hnew
  · exact absurd (rsp_err_of_hostMove he) hnew
  · exact absurd ((preWaitMove_rsp _ s).symm.trans he) hnew
  · exact absurd (rsp_err_of_postWaitMove he) hnew
  · rcases busEvent_rsp_err hle he with ⟨hb, hm⟩ | hold
    · exact ⟨hx, hp, hb, by simp [hm], by simp [hm]⟩
    · exact absurd hold hnew

/-! ## A second caller (R184, R201) -/

/-- A request that needs the engine is not fetched while a sequence is in progress (U8). -/
theorem fetch_second_caller {r : Request} {i : Instr} {s : State} {q : SeqRun} (hp : s.port = some r)
    (hd : decode r = .ok i) (hc : isCodec i = false) (hq : s.seq = some q) :
    fetch s = .error .sequenceInProgress := by
  simp [fetch, hp, hd, hc, hq]

/-- Settles O14: what is not fetched is not run. -/
theorem secondCallerRefused : Obligations.SecondCallerRefused := by
  intro r i s q hp hd hc hq
  simp [step, fetch_second_caller hp hd hc hq]

end Sys2Proof.Machine

/-! Reset and hazards: the state after reset, the radio's reset pulse, and the end of every called sequence under
fairness of the busy and interrupt lines. -/

namespace Sys2Proof.Machine

/-- Settles O1: the fields of `State.reset`. -/
theorem resetLeavesBlockIdle : Obligations.ResetLeavesBlockIdle := ⟨rfl, rfl, rfl, rfl, rfl, rfl⟩

/-! ## The radio's reset pulse (R198) -/

section Delay

variable {s : State} {ms : Nat} {todo : List SeqStep} {got : Gathered}

/-- A delay that has not elapsed lets one sample pass and nothing else. -/
theorem step_delay_running (hi : s.phase = .idle) (hp : s.port = none) (hq : s.seq = some ⟨.delay ms :: todo, none, got⟩)
    (he : s.pins.elapsed = false) : step s = .next (passSample s) := by
  rw [step_sequence hi hp hq]
  simp [seqMove, issueStep, he]

/-- A delay that has elapsed is recorded and the sequence goes on. -/
theorem step_delay_elapsed (hi : s.phase = .idle) (hp : s.port = none) (hq : s.seq = some ⟨.delay ms :: todo, none, got⟩)
    (he : s.pins.elapsed = true) :
    step s = .next { s with
      seq := some ⟨todo, none, got⟩, pulse := s.pulse ++ [.delayed ms], env := s.env.tail, tick := s.tick + 1 } := by
  rw [step_sequence hi hp hq]
  simp [seqMove, issueStep, he, passSample]

/-- A delay lasts over any stretch of samples in which it has not elapsed (R198). -/
theorem run_delay_running {ps rest : List Pins} (hi : s.phase = .idle) (hp : s.port = none)
    (hq : s.seq = some ⟨.delay ms :: todo, none, got⟩) (he : s.env = ps ++ rest) (hrun : ∀ p ∈ ps, p.elapsed = false) :
    run ps.length s = .next { s with env := rest, tick := s.tick + ps.length } := by
  induction ps generalizing s with
  | nil =>
    obtain rfl : s.env = rest := he
    rfl
  | cons p ps ih =>
    obtain ⟨hfirst, hothers⟩ := List.forall_mem_cons.mp hrun
    have hs := step_delay_running hi hp hq (by rw [pins_of_env he]; exact hfirst)
    have hrest := ih (s := passSample s) hi hp hq (by simp [he]) hothers
    rw [List.length_cons, run_succ hs, hrest]
    simp [passSample, Nat.add_assoc, Nat.add_comm 1]

end Delay

/-- The state in which the reset pulse, begun in `s`, has `todo` left: the pin at this level, these acts recorded, `n`
samples passed, and nothing else moved. -/
def pulsing (items : List HostItem) (todo : List SeqStep) (pin : Level) (acts : List PulseEvent) (rest : List Pins)
    (n : Nat) (s : State) : State :=
  { s with
    program := items, seq := some ⟨todo, none, Gathered.empty⟩, seqResult := none, resetPin := pin
    pulse := s.pulse ++ acts, env := rest, tick := s.tick + n }

/-- From `s`, `n` steps lead into the reset pulse with these acts done, these steps to do and this schedule left. -/
def Pulsed (items : List HostItem) (todo : List SeqStep) (pin : Level) (acts : List PulseEvent) (rest : List Pins)
    (n : Nat) (s : State) : Prop :=
  run n s = .next (pulsing items todo pin acts rest n s)

section Pulse

variable {s : State} {items : List HostItem} {todo : List SeqStep} {pin : Level} {acts : List PulseEvent} {ms n : Nat}
  {p : Pins} {rest : List Pins}

/-- The idle host begins the pulse: the pin goes low at once. -/
theorem pulsed_begin (hi : s.phase = .idle) (hp : s.port = none) (hq : s.seq = none) (hr : s.rsp = none)
    (hg : s.program = .resetRadio :: items) (he : s.env = p :: rest) :
    Pulsed items (resetPulseSteps Config.catalog).tail .low [.low] rest 1 s := by
  refine run_one ?_
  rw [step_idle hp hi, hostMove_program hq hr]
  simp [programMove, hg, beginSeq, seqMove, issueStep, resetPulseSteps, pulsing, passSample, he]

/-- A stretch of samples in which the delay has not elapsed passes. -/
theorem Pulsed.delay_running {ps : List Pins} (h : Pulsed items (.delay ms :: todo) pin acts (ps ++ rest) n s)
    (hi : s.phase = .idle) (hp : s.port = none) (hrun : ∀ p ∈ ps, p.elapsed = false) :
    Pulsed items (.delay ms :: todo) pin acts rest (n + ps.length) s := by
  have hhold := run_delay_running (s := pulsing items (.delay ms :: todo) pin acts (ps ++ rest) n s) hi hp rfl rfl hrun
  refine (run_add h).trans (hhold.trans ?_)
  simp [pulsing, Nat.add_assoc]

/-- A delay that has elapsed is recorded. -/
theorem Pulsed.delay_elapsed (h : Pulsed items (.delay ms :: todo) pin acts (p :: rest) n s)
    (hi : s.phase = .idle) (hp : s.port = none) (he : p.elapsed = true) :
    Pulsed items todo pin (acts ++ [.delayed ms]) rest (n + 1) s := by
  have hs := step_delay_elapsed (s := pulsing items (.delay ms :: todo) pin acts (p :: rest) n s) hi hp rfl he
  refine (run_add h).trans ((run_one hs).trans ?_)
  simp [pulsing, Nat.add_assoc]

/-- The pin is released high. -/
theorem Pulsed.pin_high (h : Pulsed items (.pinHigh :: todo) pin acts (p :: rest) n s)
    (hi : s.phase = .idle) (hp : s.port = none) : Pulsed items todo .high (acts ++ [.high]) rest (n + 1) s := by
  have hs := step_sequence (s := pulsing items (.pinHigh :: todo) pin acts (p :: rest) n s) hi hp rfl
  refine (run_add h).trans ((run_one hs).trans ?_)
  simp [pulsing, seqMove, issueStep, passSample, Nat.add_assoc]

/-- After its last act the pulse returns success, having read nothing. -/
theorem Pulsed.returns (h : Pulsed items [] pin acts (p :: rest) n s) (hi : s.phase = .idle) (hp : s.port = none)
    (hq : s.seq = none) :
    run (n + 1) s = .next { s with
      program := items, seqResult := some (.success Gathered.empty), resetPin := pin, pulse := s.pulse ++ acts
      env := rest, tick := s.tick + (n + 1) } := by
  have hs := step_returns (s := pulsing items [] pin acts (p :: rest) n s) hi hp rfl
  refine (run_add h).trans ((run_one hs).trans ?_)
  simp [pulsing, hq, Nat.add_assoc]

end Pulse

/-- Settles O58: the pulse is followed act by act; each delay passes the stretch in which it has not elapsed. -/
theorem resetPulseRuns : Obligations.ResetPulseRuns := by
  refine ⟨?_, fun s ms todo got ps rest hi hp hq he hrun => run_delay_running hi hp hq he hrun⟩
  intro s items p1 p2 p3 p4 p5 holding settling rest hi hp hq hr hg he hholding h2 hsettling h4
  have hbegun := pulsed_begin hi hp hq hr hg (he.trans (List.append_assoc _ _ _))
  have hlow := hbegun.delay_running hi hp hholding
  have hhigh := (hlow.delay_elapsed hi hp h2).pin_high hi hp
  have hsettled := (hhigh.delay_running hi hp hsettling).delay_elapsed hi hp h4
  have hreturned := hsettled.returns hi hp hq
  rw [Nat.add_comm 1] at hlow
  rw [show 1 + holding.length + 1 + 1 + settling.length + 1 + 1 = holding.length + settling.length + 5 by omega]
    at hreturned
  exact ⟨_, _, _, Nat.le_add_right _ _, Nat.le_add_right _ _, hlow, hreturned⟩

/-! ## An operation in flight is answered

A sequence may be called in a state whose history and chip-select are anything, where the engine invariant, the premise
of `ends_of_preWait`, need not hold. That the engine comes to an answer needs only a frame in the latches and a position
in it. -/

/-- A run from `s` leads to IDLE with a response, nothing of the host touched. -/
def Answered (s : State) : Prop :=
  ∃ n t r, run n s = .next t ∧ t.phase = .idle ∧ t.rsp = some r ∧ SameHost s t

section Answering

variable {f : Frame} {s t : State}

/-- An operation is answered if it is answered from a state the run comes to. -/
theorem answered_of_run {m : Nat} (hr : run m s = .next t) (hh : SameHost s t) (h : Answered t) : Answered s := by
  obtain ⟨n, u, r, hu, hidle, hrsp, hh'⟩ := h
  exact ⟨m + n, u, r, (run_add hr).trans hu, hidle, hrsp, hh.trans hh'⟩

/-- From POST_WAIT the answer is the read buffer, once busy is observed low (R93). -/
theorem answered_of_postWait (hw : s.phase = .postWait) (hp : s.port = none) (hfair : BusyFair s) : Answered s := by
  obtain ⟨n, env, tick, hn, hlow⟩ := hfair.observes_low (.inr hw) hp
  have hs := step_postWait (s := { s with env := env, tick := tick }) hp hw
  rw [postWaitMove, hlow] at hs
  exact answered_of_run hn (.of_engine_fields ..) ⟨1, _, _, run_one hs, rfl, rfl, .of_engine_fields ..⟩

/-- From XFER the bus fails, or carries one of the bytes that are left, or the frame is at its end (R89 to R92). -/
theorem answered_of_xfer {s : State} (hx : s.phase = .xfer) (hp : s.port = none) (hf : s.latches.frame = some f)
    (hle : s.idx ≤ f.out.length + f.reads) (hfair : BusyFair s) : Answered s := by
  have hr := run_one (step_xfer hp hx hf hle)
  rcases busEvent_cases f s.pins s hle with
    ⟨err, _, e⟩ | ⟨_, b, _, hlt, e⟩ | ⟨_, _, hlt, e⟩ | ⟨_, _, e⟩ <;> rw [e] at hr
  · exact ⟨1, _, _, hr, rfl, rfl, .of_engine_fields ..⟩
  · have hnext : s.idx + 1 ≤ f.out.length + f.reads := by omega
    exact answered_of_run hr (.of_engine_fields ..) (answered_of_xfer hx hp hf hnext (hfair.of_run hr))
  · exact answered_of_run hr (.of_engine_fields ..) (answered_of_xfer hx hp hf hlt (hfair.of_run hr))
  · exact answered_of_run hr (.of_engine_fields ..) (answered_of_postWait rfl hp (hfair.of_run hr))
termination_by f.out.length + f.reads - s.idx
decreasing_by
  · simp only [passSample_idx, writeByte_idx]; omega
  · simp only [passSample_idx, readByte_idx]; omega

/-- From PRE_WAIT the whole frame is left once busy is observed low (R88). -/
theorem answered_of_preWait (hw : s.phase = .preWait) (hp : s.port = none) (hf : s.latches.frame = some f)
    (hfair : BusyFair s) : Answered s := by
  obtain ⟨n, env, tick, hn, hlow⟩ := hfair.observes_low (.inl hw) hp
  have hs := step_preWait (s := { s with env := env, tick := tick }) hp hw
  rw [preWaitMove, hlow] at hs
  refine answered_of_run hn (.of_engine_fields ..) (answered_of_run (run_one hs) (.of_engine_fields ..) ?_)
  exact answered_of_xfer rfl hp hf (Nat.zero_le _) ((hfair.of_run hn).of_run (run_one hs))

end Answering

/-! ## A called sequence returns (R19, R22, R205) -/

/-- The fairness of both lines (R19, R22). -/
structure LinesFair (s : State) : Prop where
  busy : BusyFair s
  irq  : IrqFair s

/-- What a sequence that returns leaves alone of the host's, and the port. -/
structure SameCaller (s t : State) : Prop where
  port       : t.port = s.port
  program    : t.program = s.program
  callResult : t.callResult = s.callResult
  codec      : t.codec = s.codec
  resetPin   : t.resetPin = s.resetPin
  pulse      : t.pulse = s.pulse

/-- A run from `s` leads to the return of the sequence in progress. -/
def Returns (s : State) : Prop :=
  ∃ n u r, run n s = .next u ∧ u.phase = .idle ∧ u.seq = none ∧ u.seqResult = some r ∧ SameCaller s u

/-- Under fairness an idle host that has `todo` left of a sequence and awaits nothing comes to its return. -/
def ReturnsFrom (todo : List SeqStep) : Prop :=
  ∀ s got, s.phase = .idle → s.port = none → s.seq = some ⟨todo, none, got⟩ → LinesFair s → Returns s

section Returning

variable {s t u : State} {todo : List SeqStep} {got : Gathered}

theorem LinesFair.of_run {m : Nat} (h : LinesFair s) (hr : run m s = .next t) : LinesFair t :=
  ⟨h.busy.of_run hr, h.irq.of_run hr⟩

theorem SameCaller.trans (h : SameCaller s t) (h' : SameCaller t u) : SameCaller s u :=
  ⟨h'.port.trans h.port, h'.program.trans h.program, h'.callResult.trans h.callResult, h'.codec.trans h.codec,
    h'.resetPin.trans h.resetPin, h'.pulse.trans h.pulse⟩

theorem SameHost.sameCaller (h : SameHost s t) : SameCaller s t :=
  ⟨h.port, h.program, h.callResult, h.codec, h.resetPin, h.pulse⟩

/-- The steps of a sequence change the engine, the sequence and its result, but nothing of its caller's. -/
theorem SameCaller.of_sequence_fields (phase : Phase) (latches : Latches) (rbuf : List Byte) (rsp : Option Response)
    (sq : Option SeqRun) (res : Option SeqResult) (env : List Pins) (tick : Nat) :
    SameCaller s { s with
      phase := phase, latches := latches, rbuf := rbuf, rsp := rsp, seq := sq, seqResult := res, env := env
      tick := tick } :=
  ⟨rfl, rfl, rfl, rfl, rfl, rfl⟩

/-- A sequence returns if it returns from a state the run comes to. -/
theorem returns_of_run {m : Nat} (hr : run m s = .next t) (hc : SameCaller s t) (h : Returns t) : Returns s := by
  obtain ⟨n, u, r, hu, hidle, hq, hres, hc'⟩ := h
  exact ⟨m + n, u, r, (run_add hr).trans hu, hidle, hq, hres, hc.trans hc'⟩

/-- On the way to any state with the interrupt line high, a host at its interrupt wait comes to a state that is the
present one but for the samples passed, and in which it observes the line high itself. -/
theorem irq_wait_observes_high {m : Nat} (hi : s.phase = .idle) (hp : s.port = none)
    (hq : s.seq = some ⟨.waitIrq :: todo, none, got⟩) (hr : run m s = .next u) (hu : u.pins.irq = .high) :
    ∃ n env tick, run n s = .next { s with env := env, tick := tick } ∧
      ({ s with env := env, tick := tick } : State).pins.irq = .high := by
  induction m generalizing s with
  | zero =>
    obtain rfl : s = u := by simpa [run_zero] using hr
    exact ⟨0, s.env, s.tick, rfl, hu⟩
  | succ m ih =>
    cases hl : s.pins.irq with
    | high => exact ⟨0, s.env, s.tick, rfl, hl⟩
    | low =>
      have hs := step_irq_low hi hp hq hl
      rw [run_succ hs] at hr
      obtain ⟨n, env, tick, hn, hhigh⟩ := ih (s := passSample s) hi hp hq hr
      exact ⟨n + 1, env, tick, (run_succ hs).trans hn, hhigh⟩

/-- With nothing left the sequence returns success. -/
theorem returnsFrom_nil : ReturnsFrom [] := fun _ _ hi hp hq _ =>
  ⟨1, _, _, run_one (step_returns hi hp hq), hi, rfl, rfl, .of_sequence_fields ..⟩

/-- The response of an operation is awaited: an error is returned at once (R159), after an `Ok` the rest is gone
through. -/
theorem ReturnsFrom.awaiting (h : ReturnsFrom todo) {d : FramedOp} {k : Collect} (ha : Awaiting d k todo got s)
    (hp : s.port = none) (hfair : LinesFair s) : Returns s := by
  obtain ⟨n, t, r, hn, hidle, hrsp, hh⟩ :=
    answered_of_preWait ha.waiting hp (by rw [ha.latches, hold_frame]) hfair.busy
  refine returns_of_run hn hh.sameCaller ?_
  have hpt := hh.port.trans hp
  have hqt := hh.seq.trans ha.flight
  cases r with
  | err e =>
    have hs := sequenceAbortsAtFirstError t todo k got e hidle hpt hqt hrsp
    exact ⟨1, _, _, run_one hs, hidle, rfl, rfl, .of_sequence_fields ..⟩
  | ok bytes =>
    have hs := run_one (step_takes_ok hidle hpt hqt hrsp)
    exact returns_of_run hs (.of_sequence_fields ..) (h _ _ hidle hpt rfl ((hfair.of_run hn).of_run hs))

/-- A step that requests an operation has it accepted, and its response is awaited. -/
theorem ReturnsFrom.request (h : ReturnsFrom todo) {st : SeqStep} (hst : ∀ got, ∃ d k, Requests st got d k) :
    ReturnsFrom (st :: todo) := by
  intro s got hi hp hq hfair
  obtain ⟨d, k, hd⟩ := hst got
  have hs := run_one (step_requests hd hi hp hq)
  exact returns_of_run hs (.of_sequence_fields ..) (h.awaiting ⟨rfl, rfl, rfl, rfl⟩ hp (hfair.of_run hs))

/-- Fairness of the interrupt line ends the interrupt wait. -/
theorem ReturnsFrom.waitIrq (h : ReturnsFrom todo) : ReturnsFrom (.waitIrq :: todo) := by
  intro s got hi hp hq hfair
  obtain ⟨m, u, hm, _, _, _, hu⟩ := hfair.irq 0 s todo got rfl hi hq
  obtain ⟨n, env, tick, hn, hhigh⟩ := irq_wait_observes_high hi hp hq hm hu
  have hs := run_one (step_irq_high (s := { s with env := env, tick := tick }) hi hp hq hhigh)
  refine returns_of_run hn (.of_sequence_fields ..) (returns_of_run hs (.of_sequence_fields ..) ?_)
  exact h _ _ hi hp rfl ((hfair.of_run hn).of_run hs)

end Returning

/-- The steps that only the busy line and the interrupt line can hold: all but the acts of the reset collaborator. -/
def SeqStep.onLines : SeqStep → Bool
  | .op _ _ => true
  | .clearIrq => true
  | .fetchPayload => true
  | .waitIrq => true
  | .pinLow => false
  | .pinHigh => false
  | .delay _ => false

/-- Under fairness any sequence of such steps returns, by induction on what is left of it. -/
theorem returnsFrom_of_onLines {todo : List SeqStep} (h : todo.all SeqStep.onLines = true) : ReturnsFrom todo := by
  induction todo with
  | nil => exact returnsFrom_nil
  | cons st todo ih =>
    obtain ⟨hst, htodo⟩ := Bool.and_eq_true_iff.mp h
    have hrest := ih htodo
    cases st with
    | op d k => exact hrest.request fun got => ⟨d, k, requests_op d k got⟩
    | clearIrq => exact hrest.request fun got => ⟨_, _, requests_clearIrq got⟩
    | fetchPayload => exact hrest.request fun got => ⟨_, _, requests_fetchPayload got⟩
    | waitIrq => exact hrest.waitIrq
    | pinLow => cases hst
    | pinHigh => cases hst
    | delay ms => cases hst

/-- `t` is `s` with a sequence just called that only the two lines can hold. -/
def CalledOnLines (s t : State) : Prop :=
  ∃ d todo, todo.all SeqStep.onLines = true ∧ t = called d todo s

theorem calledOnLines_of_startSeq {d : FramedOp} {todo : List SeqStep} {s t : State}
    (ht : startSeq (.op d .ignore :: todo) s = .next t) (h : todo.all SeqStep.onLines = true) : CalledOnLines s t := by
  rcases startSeq_cases (.op d .ignore :: todo) s with ⟨_, _, e⟩ | ⟨r, e⟩ <;> rw [e] at ht
  · exact ⟨d, todo, h, (Host.Outcome.next.inj ht).symm⟩
  · cases ht

/-- A request for one operation calls no sequence. -/
theorem request_seq {d : FramedOp} {s t : State} (ht : request d s = .next t) : t.seq = s.seq := by
  rcases request_cases d s with ⟨_, e⟩ | ⟨_, e⟩ <;> rw [e] at ht
  · rw [← Host.Outcome.next.inj ht, accept_seq]
  · cases ht

/-- An instruction after which a sequence is in progress is one of the six of the table, all of whose steps are
operations but the one interrupt wait of SEND. -/
theorem calledOnLines_of_exec {i : Instr} {s t : State} (hq : s.seq = none) (ht : exec i s = .next t)
    (hn : t.seq ≠ none) : CalledOnLines s t := by
  cases i with
  | setfreq f => exact calledOnLines_of_startSeq ht rfl
  | setmod sf bw cr => exact calledOnLines_of_startSeq ht rfl
  | setpkt pkt => exact calledOnLines_of_startSeq ht rfl
  | calibrate => exact calledOnLines_of_startSeq ht rfl
  | configure modem => exact calledOnLines_of_startSeq ht rfl
  | send payload => exact calledOnLines_of_startSeq ht rfl
  | cmd opc wdata rlen => exact absurd ((request_seq ht).trans hq) hn
  | regw addr wdata => exact absurd ((request_seq ht).trans hq) hn
  | regr addr rlen => exact absurd ((request_seq ht).trans hq) hn
  | bufw off wdata => exact absurd ((request_seq ht).trans hq) hn
  | bufr off rlen => exact absurd ((request_seq ht).trans hq) hn
  | flush =>
    by_cases hi : s.phase = .idle
    · cases (if_pos hi).symm.trans ht
      exact absurd hq hn
    · cases (if_neg hi).symm.trans ht
  | _ =>
    cases ht
    exact absurd hq hn

/-- Settles O60: a called sequence awaits the response of its first operation, and under fairness it is gone through
step by step. -/
theorem sequenceEndsUnderFairness : Obligations.SequenceEndsUnderFairness := by
  intro i s t hq hp ht hn hbusy hirq
  obtain ⟨d, todo, htodo, rfl⟩ := calledOnLines_of_exec hq ht hn
  obtain ⟨n, u, r, hr, hidle, hseq, hres, hc⟩ :=
    (returnsFrom_of_onLines htodo).awaiting (s := called d todo s) ⟨rfl, rfl, rfl, rfl⟩ hp ⟨hbusy, hirq⟩
  exact ⟨n, u, r, hr, hidle, hseq, hres, hc.port.trans hp, hc.program, hc.callResult, hc.codec, hc.resetPin, hc.pulse⟩

end Sys2Proof.Machine

/-! The range of the decoder: every enumeration operand is read by an `…OfPlace` function, which gives each member its one
name, so whatever request the decoder accepts, its instruction is well formed. -/

namespace Sys2Proof

/-! ## What an accepting decoder answers -/

/-- If the decoder accepts, its answer meets `P`; a rejection says nothing. -/
def AnswersOnly {α : Type} (P : α → Prop) (x : Except DecodeError α) : Prop := ∀ a, x = .ok a → P a

section AnswersOnly
variable {α : Type} {P : α → Prop}

theorem AnswersOnly.ok {a : α} (h : P a) : AnswersOnly P (.ok a) := by
  rintro _ ⟨⟩
  exact h

theorem AnswersOnly.error (e : DecodeError) : AnswersOnly P (.error e) := by rintro _ ⟨⟩

theorem AnswersOnly.ite {c : Prop} [Decidable c] {x y : Except DecodeError α} (hx : AnswersOnly P x)
    (hy : AnswersOnly P y) : AnswersOnly P (if c then x else y) := by
  split
  · exact hx
  · exact hy

end AnswersOnly

/-! ## Members read from places (log entry 8) -/

theorem mod_members_wellFormed (bw cr : Byte) : ((bwOfPlace bw).wellFormed && (crOfPlace cr).wellFormed) = true := by
  rw [bwOfPlace_wellFormed, crOfPlace_wellFormed, Bool.and_self]

theorem packet_members_wellFormed (hdr crc iq : Byte) :
    ((hdrOfPlace hdr).wellFormed && (crcOfPlace crc).wellFormed && (iqOfPlace iq).wellFormed) = true := by
  rw [hdrOfPlace_wellFormed, crcOfPlace_wellFormed, iqOfPlace_wellFormed, Bool.and_self, Bool.and_self]

theorem map_flagOfPlace_wellFormed (bytes : List Byte) : (bytes.map flagOfPlace).all IrqFlag.wellFormed = true := by
  rw [List.all_map, List.all_eq_true]
  exact fun b _ => flagOfPlace_wellFormed b

/-! ## Operand groups -/

theorem decodeMod_wellFormed {mk : SpreadingFactor → Bandwidth → CodingRate → Instr}
    (hmk : ∀ sf bw cr, (bw.wellFormed && cr.wellFormed) = true → WellFormed (mk sf bw cr)) (sf bw cr : Byte) :
    AnswersOnly WellFormed (decodeMod mk sf bw cr) := by
  unfold decodeMod
  split
  · exact .ok (hmk _ _ _ (mod_members_wellFormed bw cr))
  · exact .error _

theorem decodePacket_wellFormed (bytes : List Byte) :
    AnswersOnly (fun p => p.wellFormed = true) (decodePacket bytes) := by
  unfold decodePacket
  split
  · exact .ok (packet_members_wellFormed ..)
  · exact .error _

theorem decodeModem_wellFormed (bytes : List Byte) :
    AnswersOnly (fun m => (m.mod.wellFormed && m.pkt.wellFormed) = true) (decodeModem bytes) := by
  unfold decodeModem
  split
  next b0 b1 b2 power ramp sf bw cr rest =>
    split
    next pkt _ hpkt =>
      exact .ok ((Bool.and_eq_true ..).mpr ⟨mod_members_wellFormed bw cr, decodePacket_wellFormed rest pkt hpkt⟩)
    · exact .error _
    · exact .error _
  · exact .error _

/-! ## Frames and commands: no operand is an enumeration member (R51 to R55) -/

theorem decodeRegw_wellFormed (rest : List Byte) (rlen : Nat) : AnswersOnly WellFormed (decodeRegw rest rlen) := by
  unfold decodeRegw
  split
  · exact .ite (.ok rfl) (.error _)
  · exact .error _

theorem decodeRegr_wellFormed (rest : List Byte) (rlen : Nat) : AnswersOnly WellFormed (decodeRegr rest rlen) := by
  unfold decodeRegr
  split
  · exact .ite (.ok rfl) (.error _)
  · exact .error _
  · exact .error _

theorem decodeBufw_wellFormed (rest : List Byte) (rlen : Nat) : AnswersOnly WellFormed (decodeBufw rest rlen) := by
  unfold decodeBufw
  split
  · exact .ite (.ok rfl) (.error _)
  · exact .error _

theorem decodeBufr_wellFormed (rest : List Byte) (rlen : Nat) : AnswersOnly WellFormed (decodeBufr rest rlen) := by
  unfold decodeBufr
  split
  · exact .ok rfl
  · exact .error _
  · exact .error _

/-- By the first-byte map (R65). -/
theorem decodeFrame_wellFormed (bytes : List Byte) (rlen : Nat) : AnswersOnly WellFormed (decodeFrame bytes rlen) := by
  cases bytes with
  | nil => exact .error _
  | cons b rest =>
    exact .ite (decodeRegw_wellFormed rest rlen) <| .ite (decodeRegr_wellFormed rest rlen) <|
      .ite (decodeBufw_wellFormed rest rlen) <| .ite (decodeBufr_wellFormed rest rlen) (.ok rfl)

theorem decodeCommand_wellFormed (bytes : List Byte) (rlen : Nat) :
    AnswersOnly WellFormed (decodeCommand bytes rlen) := by
  cases bytes with
  | nil => exact .error _
  | cons opc wdata => exact .ok rfl

/-! ## The other operations and the whole decoder -/

/-- An operation with enumeration operands reads them through a group above; the operands of every other one are bytes or
a spreading factor, whose members are all named. -/
theorem decodeOperation_wellFormed (o : Operation) (bytes : List Byte) :
    AnswersOnly WellFormed (decodeOperation o bytes) := by
  cases o <;> simp only [decodeOperation]
  case modPack =>
    split
    · exact decodeMod_wellFormed (mk := .modPack) (fun _ _ _ => id) _ _ _
    · exact .error _
  case modField =>
    split
    · exact .ite (decodeMod_wellFormed (mk := .modField) (fun _ _ _ => id) _ _ _) (.error _)
    · exact .error _
  case setmod =>
    split
    · exact decodeMod_wellFormed (mk := .setmod) (fun _ _ _ => id) _ _ _
    · exact .error _
  case pktPack =>
    split
    · exact .ok (packet_members_wellFormed ..)
    · exact .error _
  case pktField =>
    split
    · exact .ok (packet_members_wellFormed ..)
    · exact .error _
  case setpkt =>
    split
    next pkt hpkt => exact .ok (decodePacket_wellFormed bytes pkt hpkt)
    · exact .error _
  case configure =>
    split
    next modem hmodem => exact .ok (decodeModem_wellFormed bytes modem hmodem)
    · exact .error _
  case irqOr => exact .ok (map_flagOfPlace_wellFormed bytes)
  case modFec =>
    split
    · split
      · exact .ok rfl
      · exact .error _
    · exact .error _
  case send => exact .ok rfl
  all_goals
    split
    · exact .ok rfl
    · exact .error _

/-- Settles O7: by the selector of the request. -/
theorem decodedIsWellFormed : Obligations.DecodedIsWellFormed := by
  intro r
  change AnswersOnly WellFormed (decode r)
  unfold decode
  split
  · exact decodeFrame_wellFormed r.bytes r.rlen
  · exact decodeCommand_wellFormed r.bytes r.rlen
  · exact .ite (decodeOperation_wellFormed _ r.bytes) (.error _)

end Sys2Proof
